-- ==== Sys2Proof/Word.lean ====
section
/-! DEFINITION. The word types of ch8-emu CORE (spec `00_scope.md` R6, R7): every width is fixed, every value unsigned. -/

namespace Sys2Proof

/-- An 8-bit value: a `V` register, a timer, a byte of memory (`V_WIDTH`, `TIMER_WIDTH`, R6). -/
abbrev Byte := BitVec 8

/-- A 16-bit value: `I`, `PC`, a stack entry, an instruction word (`I_WIDTH`, `PC_WIDTH`, `STACK_ENTRY_WIDTH`, R6). -/
abbrev Word := BitVec 16

/-- A register index `x` or `y`: 4 bits, so no index is out of range (R21, R94). -/
abbrev RegIx := BitVec 4

/-- A 4-bit field of a word: the family, a sub-opcode, the sprite height `n` (R92). -/
abbrev Nibble := BitVec 4

/-- The 12-bit address field `nnn` (R92, R94). -/
abbrev Addr12 := BitVec 12

end Sys2Proof
end

