-- ==== Sys2Proof/Config.lean ====
section
/-! DEFINITION. The parameters of `00_scope.md` R6 that size or place things, and the one free value.
`FONT_ROM`, `SHIFT_SOURCE`, `INDEX_AFTER_BLOCK` and `VF_ORDER`, the parameters of R6 that say what an instruction
does, stand in `Sys2Proof/Machine/` (Ops, Operands, Flags), where a later repair may change them. -/

namespace Sys2Proof.Config

/-- `MEM_SIZE`: bytes of memory, addresses `0 .. memSize - 1` (R6, R60). -/
abbrev memSize : Nat := 4096

/-- `NUM_V`: general registers (R6, R21). -/
abbrev numV : Nat := 16

/-- `STACK_DEPTH`: entries of the call stack (R6, R25). -/
abbrev stackDepth : Nat := 16

/-- `INSTR_BYTES`: bytes per instruction (R6, R90). -/
abbrev instrBytes : Nat := 2

/-- `LOAD_ADDR`: where an image is copied and where `PC` starts (R6, R291). -/
abbrev loadAddr : Nat := 0x200

/-- `FONT_BASE`: where the glyph table is copied (R6, R290). -/
abbrev fontBase : Nat := 0x000

/-- `NUM_GLYPHS`: built-in glyphs, digits 0..F (R6). -/
abbrev numGlyphs : Nat := 16

/-- `GLYPH_BYTES`: bytes per glyph (R6). -/
abbrev glyphBytes : Nat := 5

/-- `MAX_SPRITE_ROWS`: largest sprite height (R6). -/
abbrev maxSpriteRows : Nat := 15

/-- `WIDTH`: display columns. PRESUMED (decision D7, from general knowledge; log 8), unsafe. -/
abbrev width : Nat := 64

/-- `HEIGHT`: display rows. PRESUMED (decision D7, from general knowledge; log 8), unsafe. -/
abbrev height : Nat := 32

/-- `RND` (R6, R151): the random byte of the `k`-th draw, "constrained by nothing": it has no body, so nothing can
be proved of its value. DESIGN CHOICE (log 2) of the form, safe: the spec calls the byte a free draw. -/
opaque rnd : Nat → Byte

end Sys2Proof.Config
end

