-- ==== Sys2Proof/Syntax.lean ====
section
/-! DEFINITION. The 34 instructions of `30_encoding.md` R96, one constructor per row of `spec/opcode_table.json`, in the
table's order, each with the operands of its format (R93) at their exact widths (R94). -/

namespace Sys2Proof

inductive Instr where
  /-- `ClearScreen`, `00E0` (R212). -/
  | clearScreen
  /-- `Return`, `00EE` (R172). -/
  | ret
  /-- `Jump(nnn)`, `1nnn` (R170). -/
  | jump (nnn : Addr12)
  /-- `Call(nnn)`, `2nnn` (R171). -/
  | call (nnn : Addr12)
  /-- `SkipEqImm(x, nn)`, `3xnn` (R174). -/
  | skipEqImm (x : RegIx) (nn : Byte)
  /-- `SkipNeImm(x, nn)`, `4xnn` (R175). -/
  | skipNeImm (x : RegIx) (nn : Byte)
  /-- `SkipEqReg(x, y)`, `5xy0` (R176). -/
  | skipEqReg (x y : RegIx)
  /-- `LoadImm(x, nn)`, `6xnn` (R140). -/
  | loadImm (x : RegIx) (nn : Byte)
  /-- `AddImm(x, nn)`, `7xnn` (R141). -/
  | addImm (x : RegIx) (nn : Byte)
  /-- `Move(x, y)`, `8xy0` (R142). -/
  | move (x y : RegIx)
  /-- `Or(x, y)`, `8xy1` (R143). -/
  | or (x y : RegIx)
  /-- `And(x, y)`, `8xy2` (R144). -/
  | and (x y : RegIx)
  /-- `Xor(x, y)`, `8xy3` (R145). -/
  | xor (x y : RegIx)
  /-- `AddReg(x, y)`, `8xy4` (R146). -/
  | addReg (x y : RegIx)
  /-- `Sub(x, y)`, `8xy5` (R147). -/
  | sub (x y : RegIx)
  /-- `ShiftRight(x, y)`, `8xy6` (R148); `y` is an operand of the opcode (R101). -/
  | shiftRight (x y : RegIx)
  /-- `SubN(x, y)`, `8xy7` (R149). -/
  | subN (x y : RegIx)
  /-- `ShiftLeft(x, y)`, `8xyE` (R150); `y` is an operand of the opcode (R101). -/
  | shiftLeft (x y : RegIx)
  /-- `SkipNeReg(x, y)`, `9xy0` (R177). -/
  | skipNeReg (x y : RegIx)
  /-- `LoadIndex(nnn)`, `Annn` (R190). -/
  | loadIndex (nnn : Addr12)
  /-- `JumpOffset(nnn)`, `Bnnn` (R173). -/
  | jumpOffset (nnn : Addr12)
  /-- `Random(x, nn)`, `Cxnn` (R151). -/
  | random (x : RegIx) (nn : Byte)
  /-- `Draw(x, y, n)`, `Dxyn` (R213). -/
  | draw (x y : RegIx) (n : Nibble)
  /-- `SkipKeyPressed(x)`, `Ex9E` (R233). -/
  | skipKeyPressed (x : RegIx)
  /-- `SkipKeyNotPressed(x)`, `ExA1` (R234). -/
  | skipKeyNotPressed (x : RegIx)
  /-- `GetDelay(x)`, `Fx07` (R230). -/
  | getDelay (x : RegIx)
  /-- `WaitForKey(x)`, `Fx0A` (R235). -/
  | waitForKey (x : RegIx)
  /-- `SetDelay(x)`, `Fx15` (R231). -/
  | setDelay (x : RegIx)
  /-- `SetSound(x)`, `Fx18` (R232). -/
  | setSound (x : RegIx)
  /-- `AddIndex(x)`, `Fx1E` (R191). -/
  | addIndex (x : RegIx)
  /-- `LoadFont(x)`, `Fx29` (R192). -/
  | loadFont (x : RegIx)
  /-- `StoreBCD(x)`, `Fx33` (R193). -/
  | storeBCD (x : RegIx)
  /-- `RegDump(x)`, `Fx55` (R194). -/
  | regDump (x : RegIx)
  /-- `RegLoad(x)`, `Fx65` (R195). -/
  | regLoad (x : RegIx)
  deriving DecidableEq, Repr

end Sys2Proof
end

