-- ==== Sys2Proof/WellFormed.lean ====
section
/-! DEFINITION. Well-formedness. An instruction as R102 writes it is a mnemonic with numerals in parentheses, and it is
well formed when it has the operands of its format (R93), each within its field (R94). The operands of `Instr` have their
exact widths, so the check refuses only what is written with numerals; every `Instr` passes it. -/

namespace Sys2Proof

/-- The six formats of R93. -/
inductive Format where
  | z | a | xi | xy | xyn | xs
  deriving DecidableEq, Repr

/-- The operand fields of R92. -/
inductive OperandField where
  | x | y | n | nn | nnn
  deriving DecidableEq, Repr

/-- The least numeral a field cannot hold: `x`, `y`, `n` are 4 bits, `nn` 8, `nnn` 12 (R92, R94). -/
def OperandField.bound : OperandField → Nat
  | .x => 16
  | .y => 16
  | .n => 16
  | .nn => 256
  | .nnn => 4096

/-- The operands of a format, in the order R102 writes them (R93). -/
def Format.operands : Format → List OperandField
  | .z => []
  | .a => [.nnn]
  | .xi => [.x, .nn]
  | .xy => [.x, .y]
  | .xyn => [.x, .y, .n]
  | .xs => [.x]

/-- The 34 mnemonics of R96, in the table's order. -/
inductive Mnemonic where
  | clearScreen | ret | jump | call | skipEqImm | skipNeImm | skipEqReg | loadImm | addImm | move | or | and | xor
  | addReg | sub | shiftRight | subN | shiftLeft | skipNeReg | loadIndex | jumpOffset | random | draw
  | skipKeyPressed | skipKeyNotPressed | getDelay | waitForKey | setDelay | setSound | addIndex | loadFont
  | storeBCD | regDump | regLoad
  deriving DecidableEq, Repr

/-- The format column of R96. -/
def Mnemonic.format : Mnemonic → Format
  | .clearScreen | .ret => .z
  | .jump | .call | .loadIndex | .jumpOffset => .a
  | .skipEqImm | .skipNeImm | .loadImm | .addImm | .random => .xi
  | .skipEqReg | .skipNeReg | .move | .or | .and | .xor | .addReg | .sub | .shiftRight | .subN | .shiftLeft => .xy
  | .draw => .xyn
  | .skipKeyPressed | .skipKeyNotPressed | .getDelay | .waitForKey | .setDelay | .setSound | .addIndex | .loadFont
  | .storeBCD | .regDump | .regLoad => .xs

/-- Is `m(numerals)` well formed: as many numerals as the format has operands, each within its field (R93, R94, R102)? -/
def Mnemonic.accepts (m : Mnemonic) (numerals : List Nat) : Bool :=
  numerals.length == m.format.operands.length
    && (m.format.operands.zip numerals).all fun p => decide (p.2 < p.1.bound)

/-- The mnemonic of an instruction (R96). -/
def Instr.mnemonic : Instr → Mnemonic
  | .clearScreen => .clearScreen
  | .ret => .ret
  | .jump _ => .jump
  | .call _ => .call
  | .skipEqImm _ _ => .skipEqImm
  | .skipNeImm _ _ => .skipNeImm
  | .skipEqReg _ _ => .skipEqReg
  | .loadImm _ _ => .loadImm
  | .addImm _ _ => .addImm
  | .move _ _ => .move
  | .or _ _ => .or
  | .and _ _ => .and
  | .xor _ _ => .xor
  | .addReg _ _ => .addReg
  | .sub _ _ => .sub
  | .shiftRight _ _ => .shiftRight
  | .subN _ _ => .subN
  | .shiftLeft _ _ => .shiftLeft
  | .skipNeReg _ _ => .skipNeReg
  | .loadIndex _ => .loadIndex
  | .jumpOffset _ => .jumpOffset
  | .random _ _ => .random
  | .draw _ _ _ => .draw
  | .skipKeyPressed _ => .skipKeyPressed
  | .skipKeyNotPressed _ => .skipKeyNotPressed
  | .getDelay _ => .getDelay
  | .waitForKey _ => .waitForKey
  | .setDelay _ => .setDelay
  | .setSound _ => .setSound
  | .addIndex _ => .addIndex
  | .loadFont _ => .loadFont
  | .storeBCD _ => .storeBCD
  | .regDump _ => .regDump
  | .regLoad _ => .regLoad

/-- The operands of an instruction as R102 writes them, numerals in the order `x`, `y`, `n` / `x`, `nn` / `nnn`. -/
def Instr.numerals : Instr → List Nat
  | .clearScreen | .ret => []
  | .jump nnn | .call nnn | .loadIndex nnn | .jumpOffset nnn => [nnn.toNat]
  | .skipEqImm x nn | .skipNeImm x nn | .loadImm x nn | .addImm x nn | .random x nn => [x.toNat, nn.toNat]
  | .skipEqReg x y | .skipNeReg x y | .move x y | .or x y | .and x y | .xor x y | .addReg x y | .sub x y
  | .shiftRight x y | .subN x y | .shiftLeft x y => [x.toNat, y.toNat]
  | .draw x y n => [x.toNat, y.toNat, n.toNat]
  | .skipKeyPressed x | .skipKeyNotPressed x | .getDelay x | .waitForKey x | .setDelay x | .setSound x | .addIndex x
  | .loadFont x | .storeBCD x | .regDump x | .regLoad x => [x.toNat]

/-- A well-formed instruction: its written form passes the check (R94). -/
def Instr.wf (i : Instr) : Bool := i.mnemonic.accepts i.numerals

end Sys2Proof
end

