-- ==== Sys2Proof/Decode.lean ====
section
/-! DEFINITION. The decoder of `30_encoding.md` R95, total on any two bytes and rejecting every other word by name, and
after it the encoder of R101, written from the match column of R96 and the field positions of R92. The opcode numbers
and field positions are PRESUMED (decisions D1, D2, from general knowledge; log 7), unsafe. -/

namespace Sys2Proof

/-- Why `decode` refuses a word (R91): the document's two decode-time errors. -/
inductive OpcodeError where
  /-- The word matches no row of R96 (R97). -/
  | invalidOpcode (w : Word)
  /-- Kept in the enumeration and never returned (R99). -/
  | invalidAddress (w : Word)
  deriving DecidableEq, Repr

/-- The instruction word of two bytes, the first fetched the high one (R91; decision D3, log 7). -/
def wordOf (hi lo : Byte) : Word := hi ++ lo

/-- The byte an instruction word holds at the lower address (R64). -/
def highByte (w : Word) : Byte := w.extractLsb' 8 8

/-- The byte an instruction word holds at the higher address (R64). -/
def lowByte (w : Word) : Byte := w.extractLsb' 0 8

/-- `fam = w[15:12]` (R92). -/
def famOf (w : Word) : Nibble := w.extractLsb' 12 4

/-- `x = w[11:8]` (R92). -/
def xOf (w : Word) : RegIx := w.extractLsb' 8 4

/-- `y = w[7:4]` (R92). -/
def yOf (w : Word) : RegIx := w.extractLsb' 4 4

/-- `n = w[3:0]` (R92). -/
def nOf (w : Word) : Nibble := w.extractLsb' 0 4

/-- `nn = w[7:0]` (R92). -/
def nnOf (w : Word) : Byte := w.extractLsb' 0 8

/-- `nnn = w[11:0]` (R92). -/
def nnnOf (w : Word) : Addr12 := w.extractLsb' 0 12

/-- Family 8, by its sub-opcode `n` (R95). -/
def decodeFamily8 (w : Word) : Except OpcodeError Instr :=
  if nOf w = 0x0#4 then .ok (.move (xOf w) (yOf w))
  else if nOf w = 0x1#4 then .ok (.or (xOf w) (yOf w))
  else if nOf w = 0x2#4 then .ok (.and (xOf w) (yOf w))
  else if nOf w = 0x3#4 then .ok (.xor (xOf w) (yOf w))
  else if nOf w = 0x4#4 then .ok (.addReg (xOf w) (yOf w))
  else if nOf w = 0x5#4 then .ok (.sub (xOf w) (yOf w))
  else if nOf w = 0x6#4 then .ok (.shiftRight (xOf w) (yOf w))
  else if nOf w = 0x7#4 then .ok (.subN (xOf w) (yOf w))
  else if nOf w = 0xE#4 then .ok (.shiftLeft (xOf w) (yOf w))
  else .error (.invalidOpcode w)

/-- Family E, by its sub-opcode `nn` (R95). -/
def decodeFamilyE (w : Word) : Except OpcodeError Instr :=
  if nnOf w = 0x9E#8 then .ok (.skipKeyPressed (xOf w))
  else if nnOf w = 0xA1#8 then .ok (.skipKeyNotPressed (xOf w))
  else .error (.invalidOpcode w)

/-- Family F, by its sub-opcode `nn` (R95). -/
def decodeFamilyF (w : Word) : Except OpcodeError Instr :=
  if nnOf w = 0x07#8 then .ok (.getDelay (xOf w))
  else if nnOf w = 0x0A#8 then .ok (.waitForKey (xOf w))
  else if nnOf w = 0x15#8 then .ok (.setDelay (xOf w))
  else if nnOf w = 0x18#8 then .ok (.setSound (xOf w))
  else if nnOf w = 0x1E#8 then .ok (.addIndex (xOf w))
  else if nnOf w = 0x29#8 then .ok (.loadFont (xOf w))
  else if nnOf w = 0x33#8 then .ok (.storeBCD (xOf w))
  else if nnOf w = 0x55#8 then .ok (.regDump (xOf w))
  else if nnOf w = 0x65#8 then .ok (.regLoad (xOf w))
  else .error (.invalidOpcode w)

/-- The decision tree of R95 on a word. Sub-opcodes match exactly (R97, R98, decisions D4, D5; log 24). -/
def decodeWord (w : Word) : Except OpcodeError Instr :=
  if famOf w = 0x0#4 then
    if w = 0x00E0#16 then .ok .clearScreen
    else if w = 0x00EE#16 then .ok .ret
    else .error (.invalidOpcode w)
  else if famOf w = 0x1#4 then .ok (.jump (nnnOf w))
  else if famOf w = 0x2#4 then .ok (.call (nnnOf w))
  else if famOf w = 0x3#4 then .ok (.skipEqImm (xOf w) (nnOf w))
  else if famOf w = 0x4#4 then .ok (.skipNeImm (xOf w) (nnOf w))
  else if famOf w = 0x5#4 then
    if nOf w = 0x0#4 then .ok (.skipEqReg (xOf w) (yOf w)) else .error (.invalidOpcode w)
  else if famOf w = 0x6#4 then .ok (.loadImm (xOf w) (nnOf w))
  else if famOf w = 0x7#4 then .ok (.addImm (xOf w) (nnOf w))
  else if famOf w = 0x8#4 then decodeFamily8 w
  else if famOf w = 0x9#4 then
    if nOf w = 0x0#4 then .ok (.skipNeReg (xOf w) (yOf w)) else .error (.invalidOpcode w)
  else if famOf w = 0xA#4 then .ok (.loadIndex (nnnOf w))
  else if famOf w = 0xB#4 then .ok (.jumpOffset (nnnOf w))
  else if famOf w = 0xC#4 then .ok (.random (xOf w) (nnOf w))
  else if famOf w = 0xD#4 then .ok (.draw (xOf w) (yOf w) (nOf w))
  else if famOf w = 0xE#4 then decodeFamilyE w
  else decodeFamilyF w

/-- `decode(byte_high, byte_low)`, "pure, stateless" (R91, R95). -/
def decode (hi lo : Byte) : Except OpcodeError Instr := decodeWord (wordOf hi lo)

/-- The match column of R96. -/
def Mnemonic.matchBits : Mnemonic → Word
  | .clearScreen => 0x00E0
  | .ret => 0x00EE
  | .jump => 0x1000
  | .call => 0x2000
  | .skipEqImm => 0x3000
  | .skipNeImm => 0x4000
  | .skipEqReg => 0x5000
  | .loadImm => 0x6000
  | .addImm => 0x7000
  | .move => 0x8000
  | .or => 0x8001
  | .and => 0x8002
  | .xor => 0x8003
  | .addReg => 0x8004
  | .sub => 0x8005
  | .shiftRight => 0x8006
  | .subN => 0x8007
  | .shiftLeft => 0x800E
  | .skipNeReg => 0x9000
  | .loadIndex => 0xA000
  | .jumpOffset => 0xB000
  | .random => 0xC000
  | .draw => 0xD000
  | .skipKeyPressed => 0xE09E
  | .skipKeyNotPressed => 0xE0A1
  | .getDelay => 0xF007
  | .waitForKey => 0xF00A
  | .setDelay => 0xF015
  | .setSound => 0xF018
  | .addIndex => 0xF01E
  | .loadFont => 0xF029
  | .storeBCD => 0xF033
  | .regDump => 0xF055
  | .regLoad => 0xF065

/-- The mask column of R96, which follows the format: it covers exactly the bits that are not operand fields (R101). -/
def Mnemonic.maskBits (m : Mnemonic) : Word :=
  match m.format with
  | .z => 0xFFFF
  | .a => 0xF000
  | .xi => 0xF000
  | .xy => 0xF00F
  | .xyn => 0xF000
  | .xs => 0xF0FF

/-- Format A: `nnn` in bits 11:0 (R93). -/
def encodeA (m : Mnemonic) (nnn : Addr12) : Word := m.matchBits ||| nnn.setWidth 16

/-- Format XI: `x` in bits 11:8, `nn` in bits 7:0 (R93). -/
def encodeXI (m : Mnemonic) (x : RegIx) (nn : Byte) : Word := m.matchBits ||| x.setWidth 16 <<< 8 ||| nn.setWidth 16

/-- Format XY: `x` in bits 11:8, `y` in bits 7:4 (R93). -/
def encodeXY (m : Mnemonic) (x y : RegIx) : Word := m.matchBits ||| x.setWidth 16 <<< 8 ||| y.setWidth 16 <<< 4

/-- Format XYN: `x` in bits 11:8, `y` in bits 7:4, `n` in bits 3:0 (R93). -/
def encodeXYN (m : Mnemonic) (x y : RegIx) (n : Nibble) : Word :=
  m.matchBits ||| x.setWidth 16 <<< 8 ||| y.setWidth 16 <<< 4 ||| n.setWidth 16

/-- Format XS: `x` in bits 11:8 (R93). -/
def encodeXS (m : Mnemonic) (x : RegIx) : Word := m.matchBits ||| x.setWidth 16 <<< 8

/-- `encode(op)`: the match bits with the operand fields put in (R101). -/
def encode (i : Instr) : Word :=
  match i with
  | .clearScreen | .ret => i.mnemonic.matchBits
  | .jump nnn | .call nnn | .loadIndex nnn | .jumpOffset nnn => encodeA i.mnemonic nnn
  | .skipEqImm x nn | .skipNeImm x nn | .loadImm x nn | .addImm x nn | .random x nn => encodeXI i.mnemonic x nn
  | .skipEqReg x y | .skipNeReg x y | .move x y | .or x y | .and x y | .xor x y | .addReg x y | .sub x y
  | .shiftRight x y | .subN x y | .shiftLeft x y => encodeXY i.mnemonic x y
  | .draw x y n => encodeXYN i.mnemonic x y n
  | .skipKeyPressed x | .skipKeyNotPressed x | .getDelay x | .waitForKey x | .setDelay x | .setSound x | .addIndex x
  | .loadFont x | .storeBCD x | .regDump x | .regLoad x => encodeXS i.mnemonic x

/-- The 16-bit word of the opcode table's numbering: bits at and above `nbits` are 0. -/
def tableWord (nbits w : Nat) : Word := BitVec.ofNat 16 (w % 2 ^ nbits)

/-- The instruction the decoder reads from the word `w` of the opcode table: its high byte stands first in memory (R64). -/
def decodeTableWord (nbits w : Nat) : Option Instr :=
  match decode (highByte (tableWord nbits w)) (lowByte (tableWord nbits w)) with
  | .ok i => some i
  | .error _ => none

end Sys2Proof
end

