-- ==== Sys2Proof/Machine/State.lean ====
section
/-! DEFINITION. The state of ch8-emu CORE as plain data (`10_state.md` R20 to R33): the nine items of R20 and, beside them,
the two inputs of its transactions that the spec leaves free (the random bytes and the host's order of transactions). -/

namespace Sys2Proof.Machine

/-- The input latch `KEY`, 18 values (R27, decision D31; log 18). -/
inductive Latch where
  /-- No key pressed. -/
  | none
  /-- One of the sixteen logical keys is pressed. -/
  | key (k : Nibble)
  /-- The host pressed something that is no hexadecimal digit. -/
  | invalid
  deriving DecidableEq, Repr

/-- The framebuffer: a row is 64 pixels, column 0 its most significant bit, and there are 32 rows (R28). -/
abbrev Frame := Vector (BitVec 64) 32

/-- Memory: the cells that do not hold their reset contents, in one canonical form (`Memory.wf` in Machine/Ops.lean). -/
abbrev Memory := List Host.Cell

/-- The read transactions of R34. A coordinate out of range "is outside the interface" (R216): it cannot be written. -/
inductive Query where
  | pixel (r : Fin 32) (c : Fin 64)
  | width
  | height
  | getDelay
  | getSound
  | peekKey
  deriving DecidableEq, Repr

/-- The transactions of R34 that are not `STEP` (decision D36; log 20). -/
inductive HostMove where
  /-- `RESET` (R290). -/
  | reset
  /-- `LOAD(bytes)` (R291). -/
  | load (bytes : List Byte)
  /-- `TICK` (R237). -/
  | tick
  /-- `KEY_PRESS(s)`, `s` any key value the host may report (R238). -/
  | keyPress (s : String)
  /-- `KEY_RELEASE` (R239). -/
  | keyRelease
  /-- A read-only observation (R216, R240). -/
  | read (q : Query)
  deriving DecidableEq, Repr

/-- One transaction at the core's boundary (R34), atomic and ordered with every other (R35). -/
inductive Transaction where
  /-- `STEP` (R120). -/
  | step
  /-- Any other transaction of the host. -/
  | host (m : HostMove)
  deriving DecidableEq, Repr

/-- The state. The first ten fields are the nine items of R20 (`DT` and `ST` are one item there). The last two are the
MODEL's own: they hold what the spec makes an input of the machine. -/
structure State where
  /-- `V[0..15]` (R21); `VF = V[15]` (R22). -/
  v : Vector Byte 16
  /-- `I` (R23). -/
  i : Word
  /-- `PC` (R24). -/
  pc : Word
  /-- `STACK[0..15]` (R25). -/
  stack : Vector Word 16
  /-- `SP`, the number of valid entries, 0..16 (R25, decision D30; log 21). -/
  sp : Fin 17
  /-- `DT`, the delay timer (R26). -/
  dt : Byte
  /-- `ST`, the sound timer (R26). -/
  st : Byte
  /-- `KEY`, the input latch (R27). -/
  key : Latch
  /-- `FB`, the framebuffer (R28). -/
  fb : Frame
  /-- `MEM[0..4095]` (R29). -/
  mem : Memory
  /-- MODEL's own: how many random bytes have been drawn (R151, decision D15). DESIGN CHOICE (log 2), safe. -/
  draws : Nat
  /-- MODEL's own: the transactions the host performs next, in order; when it is empty the host goes on with `STEP`
  (R35, decision D28). DESIGN CHOICE (log 3), unsafe for a claim that fixes it. -/
  schedule : List Transaction
  deriving DecidableEq, Repr

/-- The seven error kinds of R250, with the payloads of R250 (decision D23; log 23). -/
inductive Error where
  /-- `MemoryError::AddressOutOfBounds(addr)`: a read or write at or above 4096. Raised by the fetch, `Draw`, `StoreBCD`,
  `RegDump`, `RegLoad` and `LOAD` (R251). Safe: the run ends, as R256 asks. -/
  | addressOutOfBounds (addr : Nat)
  /-- `StackError::StackOverflow`: `Call` with a full stack (R171). Safe: the run ends, as R256 asks. -/
  | stackOverflow
  /-- `StackError::StackUnderflow`: `Return` with an empty stack (R172). Safe: the run ends, as R256 asks. -/
  | stackUnderflow
  /-- `OpcodeError::InvalidOpcode(w)`: decode of a word outside R96 (R97). Safe: the run ends, as R256 asks. -/
  | invalidOpcode (w : Word)
  /-- `OpcodeError::InvalidAddress(w)`: raised by nothing (R99, decision D6; log 24). Safe: no transition has it. -/
  | invalidAddress (w : Word)
  /-- `DisplayError::InvalidSprite(digit)`: `LoadFont` with a value above 15 (R192). Safe: the run ends, as R256 asks. -/
  | invalidSprite (digit : Byte)
  /-- `InputError::InvalidKey`: a key instruction while the latch holds no hexadecimal digit (R236). Safe: the run ends,
  as R256 asks. -/
  | invalidKey
  deriving DecidableEq, Repr

/-- Why a step stops. -/
inductive Fault where
  /-- The transaction returned `Err(E, info)` (R250) and left the machine in `left`: every assignment made before the
  error stays (R9, R254, R255). Raised by every transaction that can fail, through `raise` alone. Safe: R256 says that a
  model treats every error as the end of the run; the real host may go on from `left` (log 1). -/
  | stepError (e : Error) (left : State)
  deriving DecidableEq, Repr

/-- Why an instruction has no meaning. Every instruction of R96 has one, so nothing answers with a refusal. -/
inductive Refusal where
  /-- The instruction is not modelled; only an arm of exec may answer so, and none does. Safe. -/
  | notModelled (mnemonic : String)
  deriving DecidableEq, Repr

/-- What a transaction answers. -/
abbrev StepResult := Host.Outcome State Fault Refusal

/-- The state after `RESET` (R33, R290). Memory lists nothing: an unlisted cell reads as its reset contents. `PC` and memory
are the document's; the zeros, the empty stack, the empty latch and the clear display are decision D19 (log 5), unsafe. -/
def State.reset : State where
  v := Vector.replicate 16 0
  i := 0
  pc := BitVec.ofNat 16 Config.loadAddr
  stack := Vector.replicate 16 0
  sp := 0
  dt := 0
  st := 0
  key := .none
  fb := Vector.replicate 32 0
  mem := []
  draws := 0
  schedule := []

end Sys2Proof.Machine
end

