-- ==== Sys2Proof/Machine/Ops.lean ====
section
/-! DEFINITION. The named operations over memory, registers, the call stack and the latch (`00_scope.md` R8), taking an
error (`60_exceptions.md` R254), and the fetch (`40_step_cycle.md` R120, R121). -/

namespace Sys2Proof.Machine

/-! ## The glyph table (R215) -/

/-- The glyph of a digit: five bytes, one per row. PRESUMED (decision D8, from general knowledge; log 6), unsafe. -/
def glyph : Nat → List Byte
  | 0x0 => [0xF0, 0x90, 0x90, 0x90, 0xF0]
  | 0x1 => [0x20, 0x60, 0x20, 0x20, 0x70]
  | 0x2 => [0xF0, 0x10, 0xF0, 0x80, 0xF0]
  | 0x3 => [0xF0, 0x10, 0xF0, 0x10, 0xF0]
  | 0x4 => [0x90, 0x90, 0xF0, 0x10, 0x10]
  | 0x5 => [0xF0, 0x80, 0xF0, 0x10, 0xF0]
  | 0x6 => [0xF0, 0x80, 0xF0, 0x90, 0xF0]
  | 0x7 => [0xF0, 0x10, 0x20, 0x40, 0x40]
  | 0x8 => [0xF0, 0x90, 0xF0, 0x90, 0xF0]
  | 0x9 => [0xF0, 0x90, 0xF0, 0x10, 0xF0]
  | 0xA => [0xF0, 0x90, 0xF0, 0x90, 0x90]
  | 0xB => [0xE0, 0x90, 0xE0, 0x90, 0xE0]
  | 0xC => [0xF0, 0x80, 0x80, 0x80, 0xF0]
  | 0xD => [0xE0, 0x90, 0x90, 0x90, 0xE0]
  | 0xE => [0xF0, 0x80, 0xF0, 0x80, 0xF0]
  | 0xF => [0xF0, 0x80, 0xF0, 0x80, 0x80]
  | _ => []

/-- `FONT_ROM[k]`, digit `d` at offset `5 * d`; zero past its 80 bytes (R215). -/
def fontRom (k : Nat) : Byte := (glyph (k / Config.glyphBytes)).getD (k % Config.glyphBytes) 0

/-! ## Memory (R60 to R63) -/

/-- What an unlisted address reads as: its contents after `RESET`, the glyph table at `FONT_BASE` and zero elsewhere
(R33, R67, R290). -/
def unlistedByte (a : Nat) : Byte := if Config.fontBase ≤ a then fontRom (a - Config.fontBase) else 0

/-- `MEM[a]` of a memory. -/
def Memory.byteAt : Memory → Nat → Byte
  | [], a => unlistedByte a
  | (k, b) :: rest, a => if k = a then b else Memory.byteAt rest a

/-- A cell put before a list, unless it holds what the address reads as unlisted. -/
def Memory.cons (a : Nat) (b : Byte) (rest : Memory) : Memory := if b = unlistedByte a then rest else (a, b) :: rest

/-- `MEM[a] <- b`, keeping the canonical form. -/
def Memory.put : Memory → Nat → Byte → Memory
  | [], a, b => Memory.cons a b []
  | (k, c) :: rest, a, b =>
    if a < k then Memory.cons a b ((k, c) :: rest)
    else if a = k then Memory.cons a b rest
    else (k, c) :: Memory.put rest a b

/-- The canonical form: addresses strictly rising, all of them addresses of the machine, no cell equal to what its
address reads as unlisted. Equal memories are then equal lists. -/
abbrev Memory.wf (m : Memory) : Prop :=
  m.Pairwise (fun c d => c.1 < d.1) ∧ ∀ c ∈ m, c.1 < Config.memSize ∧ c.2 ≠ unlistedByte c.1

/-! ## Reads and updates of State, one per item of R20 -/

/-- `V[k]` (R21). -/
def State.getV (s : State) (k : RegIx) : Byte := s.v[k.toNat]

/-- `V[k] <- b` (R21): no register is hard-wired. -/
def State.setV (s : State) (k : RegIx) (b : Byte) : State := { s with v := s.v.set k.toNat b }

/-- `I <- w` (R23). -/
def State.setI (s : State) (w : Word) : State := { s with i := w }

/-- `PC <- w` (R24). -/
def State.setPc (s : State) (w : Word) : State := { s with pc := w }

/-- The call stack and its count replaced together (R25). -/
def State.setStack (s : State) (entries : Vector Word 16) (count : Fin 17) : State :=
  { s with stack := entries, sp := count }

/-- `DT <- b` (R26). -/
def State.setDt (s : State) (b : Byte) : State := { s with dt := b }

/-- `ST <- b` (R26). -/
def State.setSt (s : State) (b : Byte) : State := { s with st := b }

/-- `KEY <- l` (R27). -/
def State.setKey (s : State) (l : Latch) : State := { s with key := l }

/-- `FB <- f` (R28). -/
def State.setFb (s : State) (f : Frame) : State := { s with fb := f }

/-- `MEM <- m` (R29). -/
def State.setMem (s : State) (m : Memory) : State := { s with mem := m }

/-- The model's count of random draws (R151; log 2). -/
def State.setDraws (s : State) (k : Nat) : State := { s with draws := k }

/-- The host's transactions still to come (R35; log 3). -/
def State.setSchedule (s : State) (ts : List Transaction) : State := { s with schedule := ts }

/-! ## Taking an error -/

/-- `raise E(info)` (R9, R254): the transaction stops at once, nothing is saved anywhere, control goes nowhere inside the
machine, and every assignment already made stays: `s` is the state so far. There is no return from it (R256). -/
def raise (e : Error) (s : State) : StepResult := .fault (.stepError e s)

/-- Go on with what a primitive answers in the state `s`, or raise its error there (R9). -/
def orRaise {α : Type} (s : State) (r : Except Error α) (k : α → StepResult) : StepResult :=
  match r with
  | .ok a => k a
  | .error e => raise e s

/-! ## The primitives of R8 that can fail -/

/-- `MemRead(addr, 1)` (R61): `addr` is a natural number, never truncated. -/
def memRead (s : State) (a : Nat) : Except Error Byte :=
  if a < Config.memSize then .ok (s.mem.byteAt a) else .error (.addressOutOfBounds a)

/-- `MemWrite(addr, 1, v)` (R62): every address below 4096 is writable, and a failing write changes nothing. -/
def memWrite (s : State) (a : Nat) (b : Byte) : Except Error State :=
  if a < Config.memSize then .ok (s.setMem (s.mem.put a b)) else .error (.addressOutOfBounds a)

/-- `Push(v)` (R25): a failing push changes nothing. -/
def push (s : State) (w : Word) : Except Error State :=
  if h : s.sp.val < Config.stackDepth then
    .ok (s.setStack (s.stack.set s.sp.val w) ⟨s.sp.val + 1, Nat.succ_lt_succ h⟩)
  else .error .stackOverflow

/-- `Pop()` (R25): the popped entry keeps its stale value (decision D30; log 21), and a failing pop changes nothing. -/
def pop (s : State) : Except Error (Word × State) :=
  if h : 0 < s.sp.val then
    .ok (s.stack[s.sp.val - 1], s.setStack s.stack ⟨s.sp.val - 1, by omega⟩)
  else .error .stackUnderflow

/-- `Key()` (R236): the latch as a number; reading it changes nothing. -/
def readKey (s : State) : Except Error (Option Nibble) :=
  match s.key with
  | .none => .ok none
  | .key k => .ok (some k)
  | .invalid => .error .invalidKey

/-! ## Runs of one-byte accesses (R66, R75): ascending, each checked, the prefix kept on an error -/

/-- Write bytes at `a, a + 1, ...`; the first failing write raises, with the earlier ones kept. -/
def storeBytes : Nat → List Byte → State → StepResult
  | _, [], s => .next s
  | a, b :: bs, s => orRaise s (memWrite s a b) (storeBytes (a + 1) bs)

/-- Read `n` bytes at `a, a + 1, ...`; the first failing read is the answer. -/
def readBytes (s : State) : Nat → Nat → Except Error (List Byte)
  | _, 0 => .ok []
  | a, n + 1 =>
    match memRead s a with
    | .error e => .error e
    | .ok b =>
      match readBytes s (a + 1) n with
      | .error e => .error e
      | .ok bs => .ok (b :: bs)

/-- Load `n` registers `V[k], V[k + 1], ...` from `a, a + 1, ...`; the first failing read raises, with the earlier
registers kept. -/
def loadRegs : Nat → Nat → Nat → State → StepResult
  | _, _, 0, s => .next s
  | a, k, n + 1, s => orRaise s (memRead s a) fun b => loadRegs (a + 1) (k + 1) n (s.setV (BitVec.ofNat 4 k) b)

/-- `INDEX_AFTER_BLOCK` (R6): what `RegDump` and `RegLoad` leave in `I`, unchanged (decision D11; log 11). -/
def indexAfterBlock (index : Word) (_x : RegIx) : Word := index

/-- A block transfer that ended well leaves `I` as `INDEX_AFTER_BLOCK` says; one that raised stops where it raised. -/
def afterBlock (x : RegIx) : StepResult → StepResult
  | .next s => .next (s.setI (indexAfterBlock s.i x))
  | .fault f => .fault f
  | .refused r => .refused r

/-! ## The stages of `STEP` before execute (R120) -/

/-- Read the high byte at `PC`, then the low byte at `PC + 1` (R64, R121), neither address wrapped (R63). -/
def fetch (s : State) : Except Error (Byte × Byte) :=
  match memRead s s.pc.toNat with
  | .error e => .error e
  | .ok hi =>
    match memRead s (s.pc.toNat + 1) with
    | .error e => .error e
    | .ok lo => .ok (hi, lo)

/-- A decode error as an error of the transaction (R250). -/
def errorOfOpcode : OpcodeError → Error
  | .invalidOpcode w => .invalidOpcode w
  | .invalidAddress w => .invalidAddress w

/-- Fetch, then decode (R120). -/
def fetchDecode (s : State) : Except Error Instr :=
  match fetch s with
  | .error e => .error e
  | .ok (hi, lo) =>
    match decode hi lo with
    | .ok i => .ok i
    | .error e => .error (errorOfOpcode e)

/-- `PC <- (PC + 2) mod 65536`, after a good fetch and decode and before execute (R122, decision D9; log 9). -/
def advance (s : State) : State := s.setPc (s.pc + BitVec.ofNat 16 Config.instrBytes)

/-- A word in memory, high byte first (R64). -/
def putWord (m : Memory) (a : Nat) (w : Word) : Memory := (m.put a (highByte w)).put (a + 1) (lowByte w)

end Sys2Proof.Machine
end

