-- ==== Sys2Proof/Machine/Operands.lean ====
section
/-! DEFINITION. The operand forms: register operands, zero-extended immediates and addresses (`30_encoding.md` R94), the one
data addressing mode `I + k` (`43_index_memory.md` R196), and the register a shift reads (`00_scope.md` R6). -/

namespace Sys2Proof.Machine

/-- `VF`, that is `V[15]` (R10, R22). -/
abbrev vf : RegIx := 15

/-- `zext_16(nnn)` (R94). -/
def addressOf (nnn : Addr12) : Word := nnn.setWidth 16

/-- `zext_16(V[k])` (R173, R191). -/
def widened (b : Byte) : Word := b.setWidth 16

/-- `I + k` as a natural number, never wrapped (R63, R196; decision D25, log 16). -/
def effectiveAddress (s : State) (k : Nat) : Nat := s.i.toNat + k

/-- The settings of `SHIFT_SOURCE` (R6, R148). -/
inductive ShiftSource where
  | vx | vy
  deriving DecidableEq, Repr

/-- `SHIFT_SOURCE`: this hardware shifts `V[x]` (R148, R150; decision D10, log 10). -/
def shiftSource : ShiftSource := .vx

/-- The value a shift reads. -/
def shiftOperand (s : State) (x y : RegIx) : Byte :=
  match shiftSource with
  | .vx => s.getV x
  | .vy => s.getV y

/-- A key number zero-extended to a register's 8 bits (R233 to R235). -/
def keyByte (k : Nibble) : Byte := k.setWidth 8

/-- The registers `V0` to `Vx`, ascending (R194). -/
def regsUpTo (s : State) (x : RegIx) : List Byte := (List.range (x.toNat + 1)).map fun k => s.getV (BitVec.ofNat 4 k)

end Sys2Proof.Machine
end

