-- ==== Sys2Proof/Machine/Flags.lean ====
section
/-! DEFINITION. The results and flags of the arithmetic and shift instructions, computed on natural numbers and narrowed at
the end (`41_alu.md` R153), and the order in which a result and its flag are written (R152). -/

namespace Sys2Proof.Machine

/-- A truth value as the flag 1 or 0 (R22). -/
def flagOf (b : Bool) : Byte := if b then 1 else 0

/-- `(a + b) mod 256` (R153). -/
def sumOf (a b : Byte) : Byte := BitVec.ofNat 8 (a.toNat + b.toNat)

/-- Carry out of bit 7: `a + b > 255` (R146, R153). -/
def carryOf (a b : Byte) : Byte := flagOf (decide (a.toNat + b.toNat > 255))

/-- `(a - b) mod 256`: `a - b` when `a >= b`, `a - b + 256` when `a < b` (R147, R153). -/
def differenceOf (a b : Byte) : Byte :=
  if b.toNat ≤ a.toNat then BitVec.ofNat 8 (a.toNat - b.toNat) else BitVec.ofNat 8 (a.toNat + 256 - b.toNat)

/-- The inverse of borrow: 1 when `a >= b` (R147, R153). -/
def notBorrowOf (a b : Byte) : Byte := flagOf (decide (a.toNat ≥ b.toNat))

/-- `a div 2` (R148). -/
def shiftedRight (a : Byte) : Byte := BitVec.ofNat 8 (a.toNat / 2)

/-- `a mod 2`, the bit a right shift moves out (R148). -/
def lowBitOf (a : Byte) : Byte := BitVec.ofNat 8 (a.toNat % 2)

/-- `(a * 2) mod 256` (R150). -/
def shiftedLeft (a : Byte) : Byte := BitVec.ofNat 8 (a.toNat * 2)

/-- `a div 128`, the bit a left shift moves out (R150). -/
def highBitOf (a : Byte) : Byte := BitVec.ofNat 8 (a.toNat / 128)

/-- The settings of `VF_ORDER` (R6): which of result and flag is written last. -/
inductive VfOrder where
  | flagLast | resultLast
  deriving DecidableEq, Repr

/-- `VF_ORDER`: the flag is written last and wins when `x = 15` (R152; decision D35, log 12). -/
def vfOrder : VfOrder := .flagLast

/-- The result to `V[x]` and the flag to `VF`, in the order of `VF_ORDER`; both were computed from the old registers (R152). -/
def writeResultAndFlag (s : State) (x : RegIx) (result flag : Byte) : State :=
  match vfOrder with
  | .flagLast => (s.setV x result).setV vf flag
  | .resultLast => (s.setV vf flag).setV x result

end Sys2Proof.Machine
end

