-- ==== Sys2Proof/Machine/Alu.lean ====
section
/-! DEFINITION. Register load, arithmetic, logic, shift and random instructions (`41_alu.md`). In every meaning `PC` has
already been advanced (R122) and is not touched; none of these can raise an error. -/

namespace Sys2Proof.Machine

/-- `LoadImm(x, nn)` (R140). -/
def execLoadImm (x : RegIx) (nn : Byte) (s : State) : StepResult := .next (s.setV x nn)

/-- `AddImm(x, nn)`: wraps, no flag (R141). -/
def execAddImm (x : RegIx) (nn : Byte) (s : State) : StepResult := .next (s.setV x (sumOf (s.getV x) nn))

/-- `Move(x, y)` (R142). -/
def execMove (x y : RegIx) (s : State) : StepResult := .next (s.setV x (s.getV y))

/-- `Or(x, y)`: `VF` is not written (R143, decision D12; log 12). -/
def execOr (x y : RegIx) (s : State) : StepResult := .next (s.setV x (s.getV x ||| s.getV y))

/-- `And(x, y)`: `VF` is not written (R144, decision D12; log 12). -/
def execAnd (x y : RegIx) (s : State) : StepResult := .next (s.setV x (s.getV x &&& s.getV y))

/-- `Xor(x, y)`: `VF` is not written (R145, decision D12; log 12). -/
def execXor (x y : RegIx) (s : State) : StepResult := .next (s.setV x (s.getV x ^^^ s.getV y))

/-- `AddReg(x, y)`: carry to `VF`, written last (R146). -/
def execAddReg (x y : RegIx) (s : State) : StepResult :=
  .next (writeResultAndFlag s x (sumOf (s.getV x) (s.getV y)) (carryOf (s.getV x) (s.getV y)))

/-- `Sub(x, y)`: `Vx - Vy`, not-borrow to `VF`, written last (R147). -/
def execSub (x y : RegIx) (s : State) : StepResult :=
  .next (writeResultAndFlag s x (differenceOf (s.getV x) (s.getV y)) (notBorrowOf (s.getV x) (s.getV y)))

/-- `SubN(x, y)`: `Vy - Vx`, not-borrow to `VF`, written last (R149). -/
def execSubN (x y : RegIx) (s : State) : StepResult :=
  .next (writeResultAndFlag s x (differenceOf (s.getV y) (s.getV x)) (notBorrowOf (s.getV y) (s.getV x)))

/-- `ShiftRight(x, y)`: the old bit 0 to `VF`, written last (R148). -/
def execShiftRight (x y : RegIx) (s : State) : StepResult :=
  .next (writeResultAndFlag s x (shiftedRight (shiftOperand s x y)) (lowBitOf (shiftOperand s x y)))

/-- `ShiftLeft(x, y)`: the old bit 7 to `VF`, written last (R150). -/
def execShiftLeft (x y : RegIx) (s : State) : StepResult :=
  .next (writeResultAndFlag s x (shiftedLeft (shiftOperand s x y)) (highBitOf (shiftOperand s x y)))

/-- `Random(x, nn)`: `rnd AND nn`, `rnd` the next free byte (R151; log 2). -/
def execRandom (x : RegIx) (nn : Byte) (s : State) : StepResult :=
  .next ((s.setV x (Config.rnd s.draws &&& nn)).setDraws (s.draws + 1))

end Sys2Proof.Machine
end

