-- ==== Sys2Proof/Machine/ControlFlow.lean ====
section
/-! DEFINITION. Control transfer (`42_control_flow.md`). On entry `PC` holds the address after the instruction (R122). No
target is checked when it is written (R178). -/

namespace Sys2Proof.Machine

/-- Skip one instruction, two bytes, when the condition holds (R174 to R177, R233, R234; decision D32, log 13). -/
def skipIf (cond : Bool) (s : State) : State := if cond then s.setPc (s.pc + BitVec.ofNat 16 Config.instrBytes) else s

/-- `Jump(nnn)` (R170). -/
def execJump (nnn : Addr12) (s : State) : StepResult := .next (s.setPc (addressOf nnn))

/-- `Call(nnn)`: push the advanced `PC`, then jump; on overflow neither happens (R171). -/
def execCall (nnn : Addr12) (s : State) : StepResult :=
  orRaise s (push s s.pc) fun t => .next (t.setPc (addressOf nnn))

/-- `Return`: pop into `PC`; on underflow nothing changes (R172). -/
def execRet (s : State) : StepResult := orRaise s (pop s) fun p => .next (p.2.setPc p.1)

/-- `JumpOffset(nnn)`: `nnn + V0` modulo 65536, always `V0` (R173; decision D13, log 13). -/
def execJumpOffset (nnn : Addr12) (s : State) : StepResult := .next (s.setPc (addressOf nnn + widened (s.getV 0)))

/-- `SkipEqImm(x, nn)` (R174). -/
def execSkipEqImm (x : RegIx) (nn : Byte) (s : State) : StepResult := .next (skipIf (decide (s.getV x = nn)) s)

/-- `SkipNeImm(x, nn)` (R175). -/
def execSkipNeImm (x : RegIx) (nn : Byte) (s : State) : StepResult := .next (skipIf (decide (s.getV x ≠ nn)) s)

/-- `SkipEqReg(x, y)` (R176). -/
def execSkipEqReg (x y : RegIx) (s : State) : StepResult := .next (skipIf (decide (s.getV x = s.getV y)) s)

/-- `SkipNeReg(x, y)` (R177). -/
def execSkipNeReg (x y : RegIx) (s : State) : StepResult := .next (skipIf (decide (s.getV x ≠ s.getV y)) s)

end Sys2Proof.Machine
end

