-- ==== Sys2Proof/Machine/Display.lean ====
section
/-! DEFINITION. The display (`44_display.md`): pixels, the sprite composer of R210 as the spec writes it, and its two
instructions. -/

namespace Sys2Proof.Machine

/-- A row number modulo `HEIGHT` (R210). -/
def rowOf (n : Nat) : Fin 32 := ⟨n % Config.height, Nat.mod_lt _ (by decide)⟩

/-- A column number modulo `WIDTH` (R210). -/
def colOf (n : Nat) : Fin 64 := ⟨n % Config.width, Nat.mod_lt _ (by decide)⟩

/-- `FB[r][c]`: column 0 is the most significant bit of its row (R28). -/
def pixel (f : Frame) (r : Fin 32) (c : Fin 64) : Bool := f[r.val].getMsbD c.val

/-- `FB[r][c] <- FB[r][c] XOR 1` (R210). -/
def flipPixel (f : Frame) (r : Fin 32) (c : Fin 64) : Frame :=
  f.set r.val (f[r.val] ^^^ BitVec.twoPow 64 (63 - c.val))

/-- `FBB[r][j]`, the packed view: bit `7 - (c mod 8)` of `FBB[r][c div 8]` is `FB[r][c]` (R28). -/
def packedByte (f : Frame) (r : Fin 32) (j : Fin 8) : Byte := f[r.val].extractLsb' (56 - 8 * j.val) 8

/-- Bit `b` of a sprite byte counted from its leftmost pixel: `b = 0` is bit 7 (R210). -/
def spriteBit (sprite : Byte) (b : Nat) : Bool := sprite.getLsbD (7 - b)

/-- One sprite bit composed at row `r`, column `col + b`: a 1 flips its pixel, and a set pixel about to be flipped is an
erasure; a 0 does nothing (R210). The pair is the framebuffer and `erased`. -/
def composeBit (r : Fin 32) (col : Nat) (sprite : Byte) (p : Frame × Bool) (b : Nat) : Frame × Bool :=
  if spriteBit sprite b then (flipPixel p.1 r (colOf (col + b)), p.2 || pixel p.1 r (colOf (col + b))) else p

/-- One sprite byte composed into row `r`, its bits left to right (R210). -/
def composeByte (r : Fin 32) (col : Nat) (sprite : Byte) (p : Frame × Bool) : Frame × Bool :=
  (List.range 8).foldl (composeBit r col sprite) p

/-- The rows of a sprite, from row `row` down (R210). -/
def composeRows : Nat → Nat → List Byte → Frame × Bool → Frame × Bool
  | _, _, [], p => p
  | row, col, b :: bs, p => composeRows (row + 1) col bs (composeByte (rowOf row) col b p)

/-- `Compose(row, col, bytes)`: the new framebuffer and `erased`; it always succeeds (R210). -/
def compose (f : Frame) (row col : Nat) (bytes : List Byte) : Frame × Bool := composeRows row col bytes (f, false)

/-- The framebuffer with every pixel 0 (R212). -/
def clearFrame : Frame := Vector.replicate 32 0

/-- `ClearScreen`: no flag (R212). -/
def execClearScreen (s : State) : StepResult := .next (s.setFb clearFrame)

/-- `Draw(x, y, n)`: all reads first, then the composer at row `Vy`, column `Vx`, then the collision flag (R213; decisions
D21, D22, log 26). -/
def execDraw (x y : RegIx) (n : Nibble) (s : State) : StepResult :=
  orRaise s (readBytes s (effectiveAddress s 0) n.toNat) fun sprite =>
    .next ((s.setFb (compose s.fb (s.getV y).toNat (s.getV x).toNat sprite).1).setV vf
      (flagOf (compose s.fb (s.getV y).toNat (s.getV x).toNat sprite).2))

end Sys2Proof.Machine
end

