-- ==== Sys2Proof/Machine/IndexMemory.lean ====
section
/-! DEFINITION. Index-register and memory instructions (`43_index_memory.md`). `PC` is not touched. -/

namespace Sys2Proof.Machine

/-- `LoadIndex(nnn)` (R190). -/
def execLoadIndex (nnn : Addr12) (s : State) : StepResult := .next (s.setI (addressOf nnn))

/-- `AddIndex(x)`: wraps modulo 65536, no flag (R191; decision D14, log 13). -/
def execAddIndex (x : RegIx) (s : State) : StepResult := .next (s.setI (s.i + widened (s.getV x)))

/-- The address of the glyph of a digit, `FONT_BASE + 5 * d`; a digit above 15 has none (R192). -/
def glyphAddress (d : Byte) : Except Error Word :=
  if d.toNat > 15 then .error (.invalidSprite d) else .ok (BitVec.ofNat 16 (Config.fontBase + Config.glyphBytes * d.toNat))

/-- `LoadFont(x)`: the whole 8-bit value is the digit (R192). -/
def execLoadFont (x : RegIx) (s : State) : StepResult :=
  orRaise s (glyphAddress (s.getV x)) fun a => .next (s.setI a)

/-- The three decimal digits of a byte, hundreds first (R193; decision D20, log 15). -/
def decimalDigits (b : Byte) : List Byte :=
  [BitVec.ofNat 8 (b.toNat / 100), BitVec.ofNat 8 (b.toNat / 10 % 10), BitVec.ofNat 8 (b.toNat % 10)]

/-- `StoreBCD(x)`: three bytes at `I`, `I + 1`, `I + 2` (R193). -/
def execStoreBCD (x : RegIx) (s : State) : StepResult :=
  storeBytes (effectiveAddress s 0) (decimalDigits (s.getV x)) s

/-- `RegDump(x)`: `V0` to `Vx` at `I`, ascending (R194). -/
def execRegDump (x : RegIx) (s : State) : StepResult :=
  afterBlock x (storeBytes (effectiveAddress s 0) (regsUpTo s x) s)

/-- `RegLoad(x)`: `V0` to `Vx` from `I`, ascending (R195). -/
def execRegLoad (x : RegIx) (s : State) : StepResult :=
  afterBlock x (loadRegs (effectiveAddress s 0) 0 (x.toNat + 1) s)

end Sys2Proof.Machine
end

