-- ==== Sys2Proof/Machine/TimersInput.lean ====
section
/-! DEFINITION. Timer and key instructions (`45_timers_input.md`). The key instructions read the latch once, first, so an
invalid latch makes each fail before it changes anything (R236). -/

namespace Sys2Proof.Machine

/-- `GetDelay(x)` (R230). -/
def execGetDelay (x : RegIx) (s : State) : StepResult := .next (s.setV x s.dt)

/-- `SetDelay(x)` (R231). -/
def execSetDelay (x : RegIx) (s : State) : StepResult := .next (s.setDt (s.getV x))

/-- `SetSound(x)` (R232). -/
def execSetSound (x : RegIx) (s : State) : StepResult := .next (s.setSt (s.getV x))

/-- Is the key read from the latch the one `Vx` names? All 8 bits are compared, and no key equals none (R233; decisions
D16, D17, log 14). -/
def keyMatches (s : State) (x : RegIx) : Option Nibble → Bool
  | none => false
  | some k => decide (keyByte k = s.getV x)

/-- `SkipKeyPressed(x)` (R233). -/
def execSkipKeyPressed (x : RegIx) (s : State) : StepResult :=
  orRaise s (readKey s) fun k => .next (skipIf (keyMatches s x k) s)

/-- `SkipKeyNotPressed(x)` (R234). -/
def execSkipKeyNotPressed (x : RegIx) (s : State) : StepResult :=
  orRaise s (readKey s) fun k => .next (skipIf (!keyMatches s x k) s)

/-- What `WaitForKey` does with the key read: with none, back to the same instruction (modulo 65536 in states
no run reaches, log 22); else the key to `Vx`, the latch
not cleared (R235; decision D18, log 14). -/
def takeKey (x : RegIx) (s : State) : Option Nibble → State
  | none => s.setPc (s.pc - BitVec.ofNat 16 Config.instrBytes)
  | some k => s.setV x (keyByte k)

/-- `WaitForKey(x)` (R235). -/
def execWaitForKey (x : RegIx) (s : State) : StepResult := orRaise s (readKey s) fun k => .next (takeKey x s k)

end Sys2Proof.Machine
end

