-- ==== Sys2Proof/Machine/Transactions.lean ====
section
/-! DEFINITION. The host's transactions other than `STEP` (`10_state.md` R34): `RESET`, `LOAD`, `TICK`, `KEY_PRESS`,
`KEY_RELEASE` and the read ports. Each runs to its end before the next begins (R35). -/

namespace Sys2Proof.Machine

/-- A counter one tick on: minus 1 with a floor of 0 (R237). -/
def ticked (b : Byte) : Byte := if b.toNat > 0 then BitVec.ofNat 8 (b.toNat - 1) else b

/-- `TICK`: both timers, independently (R237). -/
def tick (s : State) : State := (s.setDt (ticked s.dt)).setSt (ticked s.st)

/-- The latch value of what the host pressed: the sixteen one-character strings `"0"` to `"9"`, `"a"` to `"f"` are the keys
0 to 15, anything else is invalid (R27, R238; decision D31, log 18). -/
def classifyKey (key : String) : Latch :=
  match key.toList with
  | ['0'] => .key 0x0
  | ['1'] => .key 0x1
  | ['2'] => .key 0x2
  | ['3'] => .key 0x3
  | ['4'] => .key 0x4
  | ['5'] => .key 0x5
  | ['6'] => .key 0x6
  | ['7'] => .key 0x7
  | ['8'] => .key 0x8
  | ['9'] => .key 0x9
  | ['a'] => .key 0xA
  | ['b'] => .key 0xB
  | ['c'] => .key 0xC
  | ['d'] => .key 0xD
  | ['e'] => .key 0xE
  | ['f'] => .key 0xF
  | _ => .invalid

/-- `KEY_PRESS(s)`: replaces whatever was latched, and cannot fail (R238). -/
def keyPress (key : String) (s : State) : State := s.setKey (classifyKey key)

/-- `KEY_RELEASE` (R239). -/
def keyRelease (s : State) : State := s.setKey .none

/-- `RESET` from any state: the nine items of R20 at their reset values, all prior state discarded (R33, R290). What the
host does next and the random bytes already drawn are not the core's state and stay (logs 2, 3). -/
def resetCore (s : State) : State := (State.reset.setDraws s.draws).setSchedule s.schedule

/-- `LOAD(bytes)`: a verbatim copy at `LOAD_ADDR`; of an image that does not fit, the bytes that fit are written and the
first that does not raises (R291; decision D27, log 17). -/
def load (bytes : List Byte) (s : State) : StepResult := storeBytes Config.loadAddr bytes s

/-- What a read port answers (R216, R240). -/
inductive Reply where
  | bit (b : Bool)
  | count (n : Nat)
  | timer (b : Byte)
  | latch (l : Latch)
  deriving DecidableEq, Repr

/-- The answer of a read transaction: it changes nothing (R216, R240). -/
def observe (q : Query) (s : State) : Reply :=
  match q with
  | .pixel r c => .bit (pixel s.fb r c)
  | .width => .count Config.width
  | .height => .count Config.height
  | .getDelay => .timer s.dt
  | .getSound => .timer s.st
  | .peekKey => .latch s.key

/-- A transaction of the host other than `STEP` (R34). The answer of a read is `observe`; the machine's step only shows that
it leaves the state alone (log 20). -/
def hostMove (m : HostMove) (s : State) : StepResult :=
  match m with
  | .reset => .next (resetCore s)
  | .load bytes => load bytes s
  | .tick => .next (tick s)
  | .keyPress key => .next (keyPress key s)
  | .keyRelease => .next (keyRelease s)
  | .read _ => .next s

end Sys2Proof.Machine
end

