-- ==== Sys2Proof/Machine/Step.lean ====
section
/-! DEFINITION. One step of the machine is one transaction (`10_state.md` R34, R35): the next of the host's schedule, or
`STEP` when the schedule is empty (log 3). -/

namespace Sys2Proof.Machine

/-- `STEP` (R120): fetch, decode, advance `PC`, execute. An error of fetch or decode leaves the state as it was, since the
advance comes after them (R121, R124). -/
def engineStep (s : State) : StepResult := orRaise s (fetchDecode s) fun i => exec i (advance s)

/-- The next transaction. -/
def step (s : State) : Host.Outcome State Fault Refusal :=
  match s.schedule with
  | [] => engineStep s
  | .step :: rest => engineStep (s.setSchedule rest)
  | .host m :: rest => hostMove m (s.setSchedule rest)

/-- Where the next instruction is fetched from once a word has been placed there: at `PC`, or at `LOAD_ADDR` when two
bytes cannot be fetched at `PC` (R121; log 4). -/
def State.fetchAddress (s : State) : Word :=
  if s.pc.toNat + 1 < Config.memSize then s.pc else BitVec.ofNat 16 Config.loadAddr

/-- `s` with the word `w` of the opcode table stored, high byte first, where the next `STEP` fetches, and no host
transaction before that `STEP` (log 4): the next step runs exactly that word. -/
def State.withFetchWord (s : State) (nbits w : Nat) : State :=
  ((s.setMem (putWord s.mem s.fetchAddress.toNat (tableWord nbits w))).setPc s.fetchAddress).setSchedule []

end Sys2Proof.Machine
end

