-- ==== Sys2Proof/Safety.lean ====
section
/-! DEFINITION. The terms the statements use: what it is for an instruction to complete or to raise, what a transaction leaves
unchanged, the invariant of the reachable states, and the closed form of a sprite. -/

namespace Sys2Proof.Machine

/-- Executing `i` in `s` (whose `PC` is already advanced, R122) answers a next state of which `post` holds. -/
def Completes (i : Instr) (s : State) (post : State → Prop) : Prop := ∃ t, exec i s = .next t ∧ post t

/-- Executing `i` in `s` returns `Err(e)` and leaves a state of which `post` holds (R254, R255). -/
def Raises (i : Instr) (s : State) (e : Error) (post : State → Prop) : Prop :=
  ∃ left, exec i s = .fault (.stepError e left) ∧ post left

/-- The items a transaction may change, memory byte by byte (R20), with the model's own two. -/
inductive Item where
  | reg (k : RegIx)
  | index
  | pc
  | stack
  | delay
  | sound
  | latch
  | frame
  | byte (a : Nat)
  | draws
  | schedule
  deriving DecidableEq, Repr

/-- Two states agree on an item, each item read through its own read. -/
def Item.agrees (s t : State) : Item → Prop
  | .reg k => t.getV k = s.getV k
  | .index => t.i = s.i
  | .pc => t.pc = s.pc
  | .stack => t.stack = s.stack ∧ t.sp = s.sp
  | .delay => t.dt = s.dt
  | .sound => t.st = s.st
  | .latch => t.key = s.key
  | .frame => ∀ r c, pixel t.fb r c = pixel s.fb r c
  | .byte a => memRead t a = memRead s a
  | .draws => t.draws = s.draws
  | .schedule => t.schedule = s.schedule

/-- The frame: `t` is `s` but for the listed items. -/
def SameBut (changed : List Item) (s t : State) : Prop := ∀ it, it ∉ changed → it.agrees s t

/-- The bytes `a, a + 1, ..., a + n - 1`. -/
def bytesFrom (a n : Nat) : List Item := (List.range n).map fun k => .byte (a + k)

/-- The registers `V0, ..., V(n-1)`. -/
def regsBelow (n : Nat) : List Item := (List.range n).map fun k => .reg (BitVec.ofNat 4 k)

/-- What an instruction may change when it completes, as its own rule names it (R140 to R151, R170 to R177, R190 to R195,
R212, R213, R230 to R235; the side writes of `VF` are R22's list). -/
def itemsWritten (s : State) : Instr → List Item
  | .clearScreen => [.frame]
  | .ret | .call _ => [.pc, .stack]
  | .jump _ | .jumpOffset _ => [.pc]
  | .skipEqImm _ _ | .skipNeImm _ _ | .skipEqReg _ _ | .skipNeReg _ _ => [.pc]
  | .skipKeyPressed _ | .skipKeyNotPressed _ => [.pc]
  | .loadImm x _ | .addImm x _ => [.reg x]
  | .move x _ | .or x _ | .and x _ | .xor x _ => [.reg x]
  | .addReg x _ | .sub x _ | .subN x _ | .shiftRight x _ | .shiftLeft x _ => [.reg x, .reg vf]
  | .random x _ => [.reg x, .draws]
  | .loadIndex _ | .addIndex _ | .loadFont _ => [.index]
  | .draw _ _ _ => [.frame, .reg vf]
  | .getDelay x => [.reg x]
  | .waitForKey x => [.reg x, .pc]
  | .setDelay _ => [.delay]
  | .setSound _ => [.sound]
  | .storeBCD _ => bytesFrom s.i.toNat 3
  | .regDump x => bytesFrom s.i.toNat (x.toNat + 1)
  | .regLoad x => regsBelow (x.toNat + 1)

/-- What an instruction may have changed when it raises: only the three block instructions commit a prefix, the accesses whose
addresses are below 4096 (R75, R255). -/
def itemsOfFailure (s : State) : Instr → List Item
  | .storeBCD _ | .regDump _ => bytesFrom s.i.toNat (Config.memSize - s.i.toNat)
  | .regLoad _ => regsBelow (Config.memSize - s.i.toNat)
  | _ => []

/-- The errors an instruction can raise in its execute stage (R251). -/
def raisable : Instr → Error → Prop
  | .call _, e => e = .stackOverflow
  | .ret, e => e = .stackUnderflow
  | .loadFont _, e => ∃ d : Byte, 15 < d.toNat ∧ e = .invalidSprite d
  | .storeBCD _, e | .regDump _, e | .regLoad _, e => ∃ a, Config.memSize ≤ a ∧ e = .addressOutOfBounds a
  | .draw _ _ n, e => n ≠ 0 ∧ ∃ a, Config.memSize ≤ a ∧ e = .addressOutOfBounds a
  | .skipKeyPressed _, e | .skipKeyNotPressed _, e | .waitForKey _, e => e = .invalidKey
  | _, _ => False

/-- The invariant of the reachable states: memory in its canonical form, `PC` at most 0x10FE, every valid stack entry at
most 0x1000 (R125, R172). -/
def StateInvariant (s : State) : Prop :=
  s.mem.wf ∧ s.pc.toNat ≤ 0x10FE ∧ ∀ k : Fin 16, k.val < s.sp.val → (s.stack[k.val]).toNat ≤ 0x1000

/-- A program has finished: the word at `PC` is a `Jump` to itself (R296, decision D33; log 25). -/
def Finished (s : State) : Prop := ∃ nnn : Addr12, nnn.toNat = s.pc.toNat ∧ fetchDecode s = .ok (.jump nnn)

/-- A result with a change made to whatever state it holds. -/
def mapState (g : State → State) : StepResult → StepResult
  | .next s => .next (g s)
  | .fault (.stepError e s) => .fault (.stepError e (g s))
  | .refused r => .refused r

/-- Does a sprite drawn at (`row`, `col`) have a 1 bit at pixel (`r`, `c`), with wraparound (R210)? -/
def spriteCovers (row col : Nat) (sprite : List Byte) (r : Fin 32) (c : Fin 64) : Bool :=
  (List.range sprite.length).any fun k =>
    (List.range 8).any fun b =>
      decide ((row + k) % 32 = r.val) && decide ((col + b) % 64 = c.val) && (sprite.getD k 0).getLsbD (7 - b)

/-- Push a list of values, the first one first. -/
def pushAll : List Word → State → Except Error State
  | [], s => .ok s
  | w :: ws, s =>
    match push s w with
    | .ok t => pushAll ws t
    | .error e => .error e

/-- Pop `n` values, the first one popped first in the list. -/
def popAll : Nat → State → Except Error (List Word × State)
  | 0, s => .ok ([], s)
  | n + 1, s =>
    match pop s with
    | .error e => .error e
    | .ok (w, t) =>
      match popAll n t with
      | .error e => .error e
      | .ok (ws, u) => .ok (w :: ws, u)

/-- The decimal digit of `v` that `StoreBCD` stores at `I + k` (R193). -/
def bcdDigit (v k : Nat) : Nat := if k = 0 then v / 100 else if k = 1 then v / 10 % 10 else v % 10

/-- The sixteen key strings of R27, in the order of their numbers. -/
def keyStrings : List String :=
  ["0", "1", "2", "3", "4", "5", "6", "7", "8", "9", "a", "b", "c", "d", "e", "f"]

/-- The glyph bytes as the table of R215 prints them, digit by digit. -/
def printedGlyphs : List Byte :=
  [0xF0, 0x90, 0x90, 0x90, 0xF0, 0x20, 0x60, 0x20, 0x20, 0x70] ++ [0xF0, 0x10, 0xF0, 0x80, 0xF0, 0xF0, 0x10, 0xF0, 0x10, 0xF0] ++
  [0x90, 0x90, 0xF0, 0x10, 0x10, 0xF0, 0x80, 0xF0, 0x10, 0xF0] ++ [0xF0, 0x80, 0xF0, 0x90, 0xF0, 0xF0, 0x10, 0x20, 0x40, 0x40] ++
  [0xF0, 0x90, 0xF0, 0x90, 0xF0, 0xF0, 0x90, 0xF0, 0x10, 0xF0] ++ [0xF0, 0x90, 0xF0, 0x90, 0x90, 0xE0, 0x90, 0xE0, 0x90, 0xE0] ++
  [0xF0, 0x80, 0x80, 0x80, 0xF0, 0xE0, 0x90, 0x90, 0x90, 0xE0] ++ [0xF0, 0x80, 0xF0, 0x80, 0xF0, 0xF0, 0x80, 0xF0, 0x80, 0x80]

end Sys2Proof.Machine
end

