-- ==== Sys2Proof/Certificates/Slice0/Obligations.lean ====
section
/-! DEFINITION. The statements about ch8-emu CORE, one per rule or group of rules of spec/. At the level of an instruction,
`s` is the state on entry to execute: its `PC` is already advanced past the instruction (R122). -/

open Sys2Proof Sys2Proof.Machine

/-! ## Encoding -/

/-- `30_encoding.md` R101: encoding and decoding are inverse, in both directions. The numbers themselves are decision D1 (log
7). -/
def Obligations.DecodeEncodeRoundTrip : Prop :=
  (∀ i : Instr, decode (highByte (encode i)) (lowByte (encode i)) = .ok i) ∧
  ∀ (hi lo : Byte) (i : Instr), decode hi lo = .ok i → encode i = wordOf hi lo

/-- R96 against R95: a word decodes to an instruction of a mnemonic exactly when it has the match bits of that mnemonic's row
under its mask, that is the decision tree and the opcode map say the same (decisions D1, D2, D4; log 7). -/
def Obligations.DecodeAgreesWithOpcodeMap : Prop :=
  ∀ (hi lo : Byte) (m : Mnemonic),
    (∃ i, decode hi lo = .ok i ∧ i.mnemonic = m) ↔ wordOf hi lo &&& m.maskBits = m.matchBits

/-- R97, R99: every word that matches no row of R96 is refused as `InvalidOpcode` with the raw word, and no word is ever
refused as `InvalidAddress` (decisions D4, D5, D6; log 24). -/
def Obligations.UnmatchedWordsAreInvalidOpcode : Prop :=
  ∀ hi lo : Byte,
    ((∀ m : Mnemonic, wordOf hi lo &&& m.maskBits ≠ m.matchBits) ↔
      decode hi lo = .error (.invalidOpcode (wordOf hi lo))) ∧
    ∀ e, decode hi lo = .error e → e = .invalidOpcode (wordOf hi lo)

/-- Words written out from the opcode map of R96 and the vectors of `95_test_vectors.md` 2.1 to 2.5, one or more per family.
The numbers, the field positions and the byte order are the PRESUMED choice of log 7 (decisions D1, D2, D3). -/
def Obligations.WordsOfTheOpcodeMapDecode : Prop :=
  decode 0x00 0xE0 = .ok .clearScreen ∧ decode 0x00 0xEE = .ok .ret ∧ decode 0x12 0x34 = .ok (.jump 0x234) ∧
  decode 0x22 0x0A = .ok (.call 0x20A) ∧ decode 0x41 0x05 = .ok (.skipNeImm 0x1 0x05) ∧
  decode 0x63 0xA5 = .ok (.loadImm 0x3 0xA5) ∧ decode 0x71 0x05 = .ok (.addImm 0x1 0x05) ∧
  decode 0x9A 0xB0 = .ok (.skipNeReg 0xA 0xB) ∧ decode 0xA3 0x00 = .ok (.loadIndex 0x300) ∧
  decode 0xC3 0x0F = .ok (.random 0x3 0x0F) ∧
  decode 0x3C 0x7F = .ok (.skipEqImm 0xC 0x7F) ∧ decode 0x51 0x20 = .ok (.skipEqReg 0x1 0x2) ∧
  decode 0x8A 0xB4 = .ok (.addReg 0xA 0xB) ∧ decode 0x80 0x0E = .ok (.shiftLeft 0x0 0x0) ∧
  decode 0xBF 0xFF = .ok (.jumpOffset 0xFFF) ∧ decode 0xD1 0x25 = .ok (.draw 0x1 0x2 0x5) ∧
  decode 0xE0 0xA1 = .ok (.skipKeyNotPressed 0x0) ∧ decode 0xF1 0x33 = .ok (.storeBCD 0x1) ∧
  decode 0xFA 0xBC = .error (.invalidOpcode 0xFABC) ∧ decode 0x51 0x21 = .error (.invalidOpcode 0x5121)

/-! ## The step cycle -/

/-- R120, R122 (decision D9, log 9): where the two bytes at `PC`, high byte first, decode to `i`, a `STEP` is the execution
of `i` in the state whose `PC` is 2 further modulo 65536. The model runs a `STEP` when its schedule is empty or says so (log
3). -/
def Obligations.StepRunsTheDecodedInstruction : Prop :=
  ∀ (s : State) (hi lo : Byte) (i : Instr),
    memRead s s.pc.toNat = .ok hi → memRead s (s.pc.toNat + 1) = .ok lo → decode hi lo = .ok i →
    (s.schedule = [] → step s = exec i (s.setPc (s.pc + 2))) ∧
    ∀ rest, s.schedule = .step :: rest → step s = exec i ((s.setSchedule rest).setPc (s.pc + 2))

/-- R73 (derived there; high byte first, decision D3, log 7, PRESUMED; `PC` advanced before execute, decision D9, log 9): a
word stored at `PC` by whatever came before is the instruction the next `STEP` runs, here with an empty schedule (log 3). -/
def Obligations.StoredWordIsTheNextInstruction : Prop :=
  ∀ (s : State) (i : Instr), s.mem.wf → s.schedule = [] → s.pc.toNat + 1 < 4096 →
    ∀ t u, memWrite s s.pc.toNat (highByte (encode i)) = .ok t →
      memWrite t (s.pc.toNat + 1) (lowByte (encode i)) = .ok u →
      step u = exec i (u.setPc (s.pc + 2))

/-- R121, R124 (decision D9, log 9; the address reported, decision D23, log 23): a fetch that needs a byte at or above 4096
raises `AddressOutOfBounds` with the first such address, and a word that does not decode raises `InvalidOpcode`; either
leaves the state as it was, `PC` included. -/
def Obligations.FetchAndDecodeErrorsChangeNothing : Prop :=
  ∀ s : State, s.schedule = [] →
    (s.pc.toNat = 4095 → step s = .fault (.stepError (.addressOutOfBounds 4096) s)) ∧
    (4096 ≤ s.pc.toNat → step s = .fault (.stepError (.addressOutOfBounds s.pc.toNat) s)) ∧
    ∀ hi lo w, memRead s s.pc.toNat = .ok hi → memRead s (s.pc.toNat + 1) = .ok lo →
      decode hi lo = .error (.invalidOpcode w) → step s = .fault (.stepError (.invalidOpcode w) s)

/-- R34, R35 (decision D28, log 3): a transaction that stands first in the host's schedule is the one that happens, in the
state in which only the transactions after it remain, and they still remain after it. A read changes nothing else (decision
D36, log 20). `LOAD` alone can fail: `RESET`, `TICK`, the key transactions and the reads complete (R251). -/
def Obligations.ScheduledTransactionHappensNext : Prop :=
  ∀ (s : State) (m : HostMove) (rest : List Transaction), s.schedule = .host m :: rest →
    step s = hostMove m (s.setSchedule rest) ∧
    (∀ q, m = .read q → step s = .next (s.setSchedule rest)) ∧
    (∀ t, step s = .next t → t.schedule = rest) ∧
    (∀ e left, step s = .fault (.stepError e left) → left.schedule = rest ∧ ∃ bytes, m = .load bytes) ∧
    ((∀ bytes, m ≠ .load bytes) → ∃ t, step s = .next t)

/-- R99, R250 row 5 (decision D6, log 24): no transaction ever returns `InvalidAddress`. -/
def Obligations.InvalidAddressIsNeverReturned : Prop :=
  ∀ (s left : State) (w : Word), step s ≠ .fault (.stepError (.invalidAddress w) left)

/-- R251 (derived there): an instruction raises in its execute stage only the errors its own rule names, with an address
(decision D23, log 23) at or above 4096 in an `AddressOutOfBounds` and a digit above 15 in an `InvalidSprite`; 24 of the 34
raise nothing. -/
def Obligations.InstructionsRaiseOnlyTheirOwnErrors : Prop :=
  ∀ (i : Instr) (s left : State) (e : Error), exec i s = .fault (.stepError e left) → raisable i e

/-- R123: every instruction has a meaning, so no step is refused. -/
def Obligations.NoStepIsRefused : Prop := ∀ (s : State) (r : Refusal), step s ≠ .refused r

/-! ## The invariant -/

/-- The reset state meets the invariant. -/
def Obligations.InvariantHoldsAtReset : Prop := StateInvariant State.reset

/-- R125 (derived there): every transaction, whether it completes or returns an error, keeps memory in canonical form (the
model's, log 6), `PC` at most 0x10FE and every valid stack entry at most 0x1000. -/
def Obligations.EveryTransactionKeepsTheInvariant : Prop :=
  ∀ s : State, StateInvariant s →
    (∀ t, step s = .next t → StateInvariant t) ∧ ∀ e left, step s = .fault (.stepError e left) → StateInvariant left

/-- R125 (derived there): in every state reached from `RESET` by any sequence of transactions, loads among them, `PC` is at
most 0x10FE, so its arithmetic never wraps. A run ends at an error (decision D24, log 1). -/
def Obligations.ReachablePcIsBounded : Prop :=
  ∀ (order : List Transaction) (n : Nat) (t : State),
    Sys2Proof.core.run n (State.reset.setSchedule order) = .next t → t.pc.toNat ≤ 0x10FE

/-! ## Rules of the whole machine -/

/-- R22, R23, R25, R26, R27, R28, R30, R60 and the instruction rules: an instruction that completes changes only the items
its own rule names: no other register, pixel, timer, stack entry or byte of memory, and never the latch or the host's
schedule. The frame rests on the choices that a block transfer keeps `I` (decision D11, log 11), logic keeps `VF` (D12, log
12), `AddIndex` sets no flag (D14, log 13) and `WaitForKey` keeps the latch (D18, log 14). -/
def Obligations.InstructionsChangeOnlyTheirItems : Prop :=
  ∀ (i : Instr) (s t : State), exec i s = .next t → SameBut (itemsWritten s i) s t

/-- R255 (derived there): an instruction that raises has changed nothing, `PC` included, but for the prefix of `StoreBCD`,
`RegDump` and `RegLoad`, the bytes or registers of their addresses below 4096. That digits already written stay is decision
D20 (log 15), that a failing `Draw` keeps `VF` is D22 (log 26), that an invalid latch keeps `Vx` is D18 (log 14). -/
def Obligations.FailedInstructionsKeepOnlyTheirPrefix : Prop :=
  ∀ (i : Instr) (s left : State) (e : Error), exec i s = .fault (.stepError e left) →
    SameBut (itemsOfFailure s i) s left

/-- R31 (c): the sound timer is not visible to a program at all: another value in it changes neither the instruction fetched,
nor what an instruction answers, nor any other item it leaves. -/
def Obligations.SoundTimerIsInvisible : Prop :=
  ∀ (i : Instr) (s : State) (b : Byte),
    fetchDecode (s.setSt b) = fetchDecode s ∧
    exec i (s.setSt b) = mapState (fun t => if i.mnemonic = .setSound then t else t.setSt b) (exec i s)

/-- R120, R151: the random byte is read by `Random` alone. The count of draws is the model's own (log 2). -/
def Obligations.OnlyRandomReadsTheRandomByte : Prop :=
  ∀ (i : Instr) (s : State) (k : Nat), i.mnemonic ≠ .random →
    exec i (s.setDraws k) = mapState (fun t => t.setDraws k) (exec i s)

/-- R25, R26, R27, R28, R31: the framebuffer is read by `Draw` alone, the latch by the three key instructions, the delay
timer by `GetDelay`, the call stack by `Call` and `Return`: to every other instruction that leaves the item alone it is
invisible. -/
def Obligations.HiddenItemsAreReadOnlyByTheirInstructions : Prop :=
  ∀ (i : Instr) (s : State),
    (∀ f, i.mnemonic ≠ .draw → i.mnemonic ≠ .clearScreen →
      exec i (s.setFb f) = mapState (fun t => t.setFb f) (exec i s)) ∧
    (∀ l, i.mnemonic ≠ .skipKeyPressed → i.mnemonic ≠ .skipKeyNotPressed → i.mnemonic ≠ .waitForKey →
      exec i (s.setKey l) = mapState (fun t => t.setKey l) (exec i s)) ∧
    (∀ b, i.mnemonic ≠ .getDelay → i.mnemonic ≠ .setDelay →
      exec i (s.setDt b) = mapState (fun t => t.setDt b) (exec i s)) ∧
    ∀ es n, i.mnemonic ≠ .call → i.mnemonic ≠ .ret →
      exec i (s.setStack es n) = mapState (fun t => t.setStack es n) (exec i s)

/-! ## Load, arithmetic, logic, shift, random -/

/-- R140, R142 to R145 (instructions of the adopted table, decision D1, log 7; `VF` untouched, decision D12, log 12): the
register loads and the logic instructions complete, write `Vx` and change nothing else. -/
def Obligations.LoadMoveAndLogicResults : Prop :=
  ∀ (s : State) (x y : RegIx) (nn : Byte),
    (Completes (.loadImm x nn) s fun t => t.getV x = nn ∧ SameBut [.reg x] s t) ∧
    (Completes (.move x y) s fun t => t.getV x = s.getV y ∧ SameBut [.reg x] s t) ∧
    (Completes (.or x y) s fun t => SameBut [.reg x] s t ∧
      ∀ b < 8, (t.getV x).getLsbD b = ((s.getV x).getLsbD b || (s.getV y).getLsbD b)) ∧
    (Completes (.and x y) s fun t => SameBut [.reg x] s t ∧
      ∀ b < 8, (t.getV x).getLsbD b = ((s.getV x).getLsbD b && (s.getV y).getLsbD b)) ∧
    (Completes (.xor x y) s fun t => SameBut [.reg x] s t ∧
      ∀ b < 8, (t.getV x).getLsbD b = ((s.getV x).getLsbD b ^^ (s.getV y).getLsbD b))

/-- R141: `AddImm` wraps and reports nothing, so `VF` changes only as its destination. -/
def Obligations.AddImmWrapsWithoutFlag : Prop :=
  ∀ (s : State) (x : RegIx) (nn : Byte),
    Completes (.addImm x nn) s fun t =>
      (t.getV x).toNat = ((s.getV x).toNat + nn.toNat) % 256 ∧ SameBut [.reg x] s t

/-- R146: the sum modulo 256 to `Vx`, the carry to `VF`, always and last, so that with `x = 15` the carry stays (R152,
decision D35, log 12). -/
def Obligations.AddRegSumAndCarry : Prop :=
  ∀ (s : State) (x y : RegIx),
    Completes (.addReg x y) s fun t =>
      (x ≠ vf → (t.getV x).toNat = ((s.getV x).toNat + (s.getV y).toNat) % 256) ∧
      t.getV vf = (if 255 < (s.getV x).toNat + (s.getV y).toNat then 1 else 0) ∧
      SameBut [.reg x, .reg vf] s t

/-- R147, R149: the difference modulo 256 to `Vx`, not-borrow to `VF`, always and last (R152, decision D35, log 12); `Sub`
takes `Vy` from `Vx`, `SubN` takes `Vx` from `Vy`. -/
def Obligations.SubtractDifferenceAndNotBorrow : Prop :=
  ∀ (s : State) (x y : RegIx),
    (Completes (.sub x y) s fun t =>
      (x ≠ vf → ((t.getV x).toNat : Int) = ((s.getV x).toNat - (s.getV y).toNat : Int) % 256) ∧
      t.getV vf = (if (s.getV y).toNat ≤ (s.getV x).toNat then 1 else 0) ∧
      SameBut [.reg x, .reg vf] s t) ∧
    (Completes (.subN x y) s fun t =>
      (x ≠ vf → ((t.getV x).toNat : Int) = ((s.getV y).toNat - (s.getV x).toNat : Int) % 256) ∧
      t.getV vf = (if (s.getV x).toNat ≤ (s.getV y).toNat then 1 else 0) ∧
      SameBut [.reg x, .reg vf] s t)

/-- R148, R150 (`SHIFT_SOURCE = Vx`, decision D10, log 10): `Vx` shifted by one place, the bit moved out to `VF`, always and
last (R152, decision D35, log 12); `Vy` has no part in it. -/
def Obligations.ShiftsMoveOneBitToVf : Prop :=
  ∀ (s : State) (x y : RegIx),
    (Completes (.shiftRight x y) s fun t =>
      (x ≠ vf → ∀ b < 8, (t.getV x).getLsbD b = (decide (b < 7) && (s.getV x).getLsbD (b + 1))) ∧
      t.getV vf = (if (s.getV x).getLsbD 0 then 1 else 0) ∧ SameBut [.reg x, .reg vf] s t) ∧
    (Completes (.shiftLeft x y) s fun t =>
      (x ≠ vf → ∀ b < 8, (t.getV x).getLsbD b = (decide (0 < b) && (s.getV x).getLsbD (b - 1))) ∧
      t.getV vf = (if (s.getV x).getLsbD 7 then 1 else 0) ∧ SameBut [.reg x, .reg vf] s t)

/-- R151 (adopted table, decision D1, log 7, PRESUMED; the free byte, decision D15, log 2): `Random` writes the free byte of
this draw under the mask, and no bit outside the mask, whatever that byte is; the next draw is another one. -/
def Obligations.RandomMasksAFreeByte : Prop :=
  ∀ (s : State) (x : RegIx) (nn : Byte),
    Completes (.random x nn) s fun t =>
      t.getV x = Config.rnd s.draws &&& nn ∧ (∀ b < 8, nn.getLsbD b = false → (t.getV x).getLsbD b = false) ∧
      t.draws = s.draws + 1 ∧ SameBut [.reg x, .draws] s t

/-- R22: the six instructions that write `VF` as a side effect always leave 0 or 1 in it, whatever their operands. With `x =
15` this rests on the order of writing (R152, decision D35, log 12). -/
def Obligations.SideWrittenVfIsZeroOrOne : Prop :=
  ∀ (i : Instr) (s t : State), exec i s = .next t →
    i.mnemonic ∈ [Mnemonic.addReg, .sub, .subN, .shiftRight, .shiftLeft, .draw] →
    t.getV vf = 0 ∨ t.getV vf = 1

/-! ## Control transfer -/

/-- R170: `Jump` puts `nnn` in `PC`, checks nothing and changes nothing else. -/
def Obligations.JumpSetsPc : Prop :=
  ∀ (s : State) (nnn : Addr12),
    Completes (.jump nnn) s fun t => t.pc.toNat = nnn.toNat ∧ SameBut [.pc] s t

/-- R173 (adopted table, decision D1, log 7; always `V0`, decision D13, log 13): `JumpOffset` puts `nnn + V0` in `PC`, at
most 0x10FE, so it never wraps. -/
def Obligations.JumpOffsetAddsV0 : Prop :=
  ∀ (s : State) (nnn : Addr12),
    Completes (.jumpOffset nnn) s fun t =>
      t.pc.toNat = nnn.toNat + (s.getV 0).toNat ∧ t.pc.toNat ≤ 0x10FE ∧ SameBut [.pc] s t

/-- R171: with fewer than 16 entries `Call` pushes the advanced `PC` and jumps; with 16 it raises `StackOverflow` and neither
pushes nor jumps. Where the entry stands and that every other slot keeps its value is decision D30 (log 21). -/
def Obligations.CallPushesPcAndJumps : Prop :=
  ∀ (s : State) (nnn : Addr12),
    (s.sp.val < 16 → Completes (.call nnn) s fun t =>
      t.pc.toNat = nnn.toNat ∧ t.sp.val = s.sp.val + 1 ∧
      (∀ k : Fin 16, t.stack[k.val] = if k.val = s.sp.val then s.pc else s.stack[k.val]) ∧
      SameBut [.pc, .stack] s t) ∧
    (s.sp.val = 16 → exec (.call nnn) s = .fault (.stepError .stackOverflow s))

/-- R172: with an entry on the stack `Return` pops it into `PC` as it is, and the popped slot keeps its value (decision D30,
log 21); with none it raises `StackUnderflow` and changes nothing. -/
def Obligations.ReturnPopsIntoPc : Prop :=
  ∀ s : State,
    (0 < s.sp.val → Completes .ret s fun t =>
      (∀ k : Fin 16, k.val + 1 = s.sp.val → t.pc = s.stack[k.val]) ∧ t.sp.val + 1 = s.sp.val ∧
      t.stack = s.stack ∧ SameBut [.pc, .stack] s t) ∧
    (s.sp.val = 0 → exec .ret s = .fault (.stepError .stackUnderflow s))

/-- R171 with R172: a `Return` that finds the stack as a `Call` left it, whatever became of every other item in between,
resumes after the `Call`, with every older entry as before the `Call` (the slots kept, decision D30, log 21), and changes
nothing else. -/
def Obligations.ReturnResumesAfterCall : Prop :=
  ∀ (s : State) (nnn : Addr12), s.sp.val < 16 →
    ∃ t, exec (.call nnn) s = .next t ∧
      ∀ v : State, v.stack = t.stack → v.sp = t.sp →
        Completes .ret v fun u =>
          u.pc = s.pc ∧ u.sp = s.sp ∧ (∀ k : Fin 16, k.val ≠ s.sp.val → u.stack[k.val] = s.stack[k.val]) ∧
          SameBut [.pc, .stack] v u

/-- R174 to R177 (adopted table, decision D1, log 7; two bytes, decision D32, log 13): each plain skip moves `PC` 2 further,
modulo 65536, exactly when its condition holds, and changes nothing else. -/
def Obligations.SkipsMovePcByTwo : Prop :=
  ∀ (s : State) (x y : RegIx) (nn : Byte),
    (Completes (.skipEqImm x nn) s fun t =>
      t.pc.toNat = (s.pc.toNat + if s.getV x = nn then 2 else 0) % 65536 ∧ SameBut [.pc] s t) ∧
    (Completes (.skipNeImm x nn) s fun t =>
      t.pc.toNat = (s.pc.toNat + if s.getV x = nn then 0 else 2) % 65536 ∧ SameBut [.pc] s t) ∧
    (Completes (.skipEqReg x y) s fun t =>
      t.pc.toNat = (s.pc.toNat + if s.getV x = s.getV y then 2 else 0) % 65536 ∧ SameBut [.pc] s t) ∧
    (Completes (.skipNeReg x y) s fun t =>
      t.pc.toNat = (s.pc.toNat + if s.getV x = s.getV y then 0 else 2) % 65536 ∧ SameBut [.pc] s t)

/-- R25 and vector S2 (array and count, decision D30, log 21): what fits on the stack is pushed whole and popped in reverse
order, back to the old count; a push on 16 entries and a pop of none raise their errors and change nothing. -/
def Obligations.StackIsLastInFirstOut : Prop :=
  (∀ (s : State) (ws : List Word), s.sp.val + ws.length ≤ 16 →
    ∃ t u, pushAll ws s = .ok t ∧ t.sp.val = s.sp.val + ws.length ∧
      popAll ws.length t = .ok (ws.reverse, u) ∧ u.sp = s.sp ∧ SameBut [.stack] s u) ∧
  ∀ (s : State) (w : Word),
    (s.sp.val = 16 → push s w = .error .stackOverflow) ∧ (s.sp.val = 0 → pop s = .error .stackUnderflow)

/-! ## Memory, index register and block instructions -/

/-- R61, R62: below 4096 a write completes, the byte reads back and no other byte and no other item changes; at and above
4096 a read and a write both raise `AddressOutOfBounds` with the address, which it carries by decision D23 (log 23). The
canonical form is the model's invariant (log 6). -/
def Obligations.MemoryReadAfterWrite : Prop :=
  ∀ (s : State) (a : Nat) (b : Byte),
    (a < 4096 → s.mem.wf →
      ∃ t, memWrite s a b = .ok t ∧ memRead t a = .ok b ∧ SameBut [.byte a] s t ∧ ∃ c, memRead s a = .ok c) ∧
    (4096 ≤ a → memRead s a = .error (.addressOutOfBounds a) ∧ memWrite s a b = .error (.addressOutOfBounds a))

/-- The model's own form of memory (log 6): two memories in canonical form whose 4096 bytes are equal are equal data. -/
def Obligations.EqualBytesAreEqualMemories : Prop :=
  ∀ m m' : Memory, m.wf → m'.wf → (∀ a < 4096, m.byteAt a = m'.byteAt a) → m = m'

/-- R190, R191 (adopted table, decision D1, log 7; wrap and no flag, decision D14, log 13): `I` from an immediate, and `I`
plus a register modulo 65536; nothing else changes, `VF` included. -/
def Obligations.IndexIsSetOrAddedTo : Prop :=
  ∀ (s : State) (x : RegIx) (nnn : Addr12),
    (Completes (.loadIndex nnn) s fun t => t.i.toNat = nnn.toNat ∧ SameBut [.index] s t) ∧
    (Completes (.addIndex x) s fun t =>
      t.i.toNat = (s.i.toNat + (s.getV x).toNat) % 65536 ∧ SameBut [.index] s t)

/-- R192 (contiguous glyphs, decision D8, log 6): a digit up to 15 gives the address of its glyph, whatever memory holds
there; any other value, unmasked, raises `InvalidSprite` with the digit (decision D23, log 23) and changes nothing. -/
def Obligations.LoadFontGivesGlyphAddress : Prop :=
  ∀ (s : State) (x : RegIx),
    ((s.getV x).toNat ≤ 15 → Completes (.loadFont x) s fun t =>
      t.i.toNat = 5 * (s.getV x).toNat ∧ SameBut [.index] s t) ∧
    (15 < (s.getV x).toNat → exec (.loadFont x) s = .fault (.stepError (.invalidSprite (s.getV x)) s))

/-- R193 (digit order and ascending writes, decision D20, log 15; `I` unchanged, D11, log 11): where the three bytes are in
range `StoreBCD` stores the hundreds, tens and ones, which make up `Vx`, and changes no other byte and no other item. -/
def Obligations.StoreBcdStoresThreeDigits : Prop :=
  ∀ (s : State) (x : RegIx), s.mem.wf → s.i.toNat + 2 < 4096 →
    Completes (.storeBCD x) s fun t =>
      (∀ k < 3, ∃ b, memRead t (s.i.toNat + k) = .ok b ∧ b.toNat = bcdDigit (s.getV x).toNat k ∧ b.toNat ≤ 9) ∧
      (∃ h d u : Byte, memRead t s.i.toNat = .ok h ∧ memRead t (s.i.toNat + 1) = .ok d ∧
        memRead t (s.i.toNat + 2) = .ok u ∧ 100 * h.toNat + 10 * d.toNat + u.toNat = (s.getV x).toNat) ∧
      SameBut (bytesFrom s.i.toNat 3) s t

/-- R194 (`I` unchanged, decision D11, log 11): where the bytes are in range `RegDump` stores `V0` to `Vx` at `I`, ascending,
and changes no other byte and no other item. -/
def Obligations.RegDumpStoresRegisters : Prop :=
  ∀ (s : State) (x : RegIx), s.mem.wf → s.i.toNat + x.toNat < 4096 →
    Completes (.regDump x) s fun t =>
      (∀ k : RegIx, k.toNat ≤ x.toNat → memRead t (s.i.toNat + k.toNat) = .ok (s.getV k)) ∧
      SameBut (bytesFrom s.i.toNat (x.toNat + 1)) s t

/-- R195 (`I` unchanged, decision D11, log 11): where the bytes are in range `RegLoad` loads `V0` to `Vx` from `I`,
ascending, and changes no other item. -/
def Obligations.RegLoadLoadsRegisters : Prop :=
  ∀ (s : State) (x : RegIx), s.i.toNat + x.toNat < 4096 →
    Completes (.regLoad x) s fun t =>
      (∀ k : RegIx, k.toNat ≤ x.toNat → memRead s (s.i.toNat + k.toNat) = .ok (t.getV k)) ∧
      SameBut (regsBelow (x.toNat + 1)) s t

/-- R75 (the order of the digits, decision D20, log 15; the address reported, D23, log 23; `VF` kept by a failing `Draw`,
D22, log 26): a block instruction whose range passes the end raises `AddressOutOfBounds` at its first address at or above
4096. What came before stays: `StoreBCD` and `RegDump` keep the bytes written, `RegLoad` keeps the registers loaded, and
`Draw`, which reads first, has changed nothing. -/
def Obligations.BlockErrorsKeepTheirPrefix : Prop :=
  ∀ (s : State) (x y : RegIx) (n : Nibble),
    (s.mem.wf → 4096 ≤ s.i.toNat + 2 →
      Raises (.storeBCD x) s (.addressOutOfBounds (max s.i.toNat 4096)) fun left =>
        (∀ k < 3, s.i.toNat + k < 4096 →
          ∃ b, memRead left (s.i.toNat + k) = .ok b ∧ b.toNat = bcdDigit (s.getV x).toNat k) ∧
        SameBut (bytesFrom s.i.toNat (4096 - s.i.toNat)) s left) ∧
    (s.mem.wf → 4096 ≤ s.i.toNat + x.toNat →
      Raises (.regDump x) s (.addressOutOfBounds (max s.i.toNat 4096)) fun left =>
        (∀ k : RegIx, s.i.toNat + k.toNat < 4096 → memRead left (s.i.toNat + k.toNat) = .ok (s.getV k)) ∧
        SameBut (bytesFrom s.i.toNat (4096 - s.i.toNat)) s left) ∧
    (4096 ≤ s.i.toNat + x.toNat →
      Raises (.regLoad x) s (.addressOutOfBounds (max s.i.toNat 4096)) fun left =>
        (∀ k : RegIx, s.i.toNat + k.toNat < 4096 → memRead s (s.i.toNat + k.toNat) = .ok (left.getV k)) ∧
        SameBut (regsBelow (4096 - s.i.toNat)) s left) ∧
    (0 < n.toNat → 4096 < s.i.toNat + n.toNat →
      exec (.draw x y n) s = .fault (.stepError (.addressOutOfBounds (max s.i.toNat 4096)) s))

/-- R194 with R195 (decision D11, log 11): what `RegDump` stored, `RegLoad` at the same `I` brings back, whatever became of
the registers in between. -/
def Obligations.RegLoadRestoresWhatRegDumpStored : Prop :=
  ∀ (s t u : State) (x : RegIx), s.mem.wf → exec (.regDump x) s = .next t → u.mem = t.mem → u.i = s.i →
    Completes (.regLoad x) u fun w => ∀ k : RegIx, k.toNat ≤ x.toNat → w.getV k = s.getV k

/-! ## Display -/

/-- R212: `ClearScreen` completes with every pixel 0 and changes nothing else, `VF` included. -/
def Obligations.ClearScreenClearsEveryPixel : Prop :=
  ∀ s : State, Completes .clearScreen s fun t => (∀ r c, pixel t.fb r c = false) ∧ SameBut [.frame] s t

/-- R210 with R214 (a) (derived there; 64 by 32, decision D7, log 8): a sprite of up to 15 bytes flips exactly the pixels its
1 bits fall on, with wraparound at both edges, each once, and erasure is reported exactly when some pixel went from set to
unset. -/
def Obligations.ComposeFlipsTheCoveredPixels : Prop :=
  ∀ (f : Frame) (row col : Nat) (sprite : List Byte), sprite.length ≤ 15 →
    (∀ r c, pixel (compose f row col sprite).1 r c = (pixel f r c ^^ spriteCovers row col sprite r c)) ∧
    ((compose f row col sprite).2 = true ↔
      ∃ r c, pixel f r c = true ∧ pixel (compose f row col sprite).1 r c = false)

/-- R214 (b), (c), (d) (derived there; 64 by 32, decision D7, log 8): composing twice restores the framebuffer, and the
second time erases if the sprite has a 1 bit and the first erased nothing; coordinates count modulo 32 and 64; an empty
sprite does nothing. -/
def Obligations.ComposingTwiceErases : Prop :=
  ∀ (f : Frame) (row col : Nat) (sprite : List Byte), sprite.length ≤ 15 →
    (compose (compose f row col sprite).1 row col sprite).1 = f ∧
    ((∃ b ∈ sprite, b ≠ 0) → (compose f row col sprite).2 = false →
      (compose (compose f row col sprite).1 row col sprite).2 = true) ∧
    compose f row col sprite = compose f (row % 32) (col % 64) sprite ∧
    compose f row col [] = (f, false)

/-- R211 (derived there; 64 columns, so rows of 8 bytes, decision D7, log 8): the byte-level form. One sprite byte changes
the storage byte its column starts in by its high part and the next one of the same row by its low part, wrapping at the
row's end, and erases exactly when either part meets a set bit; a sprite is its bytes one row after the other. -/
def Obligations.ComposeAgreesWithItsByteForm : Prop :=
  ∀ (f : Frame) (row col : Nat) (b : Byte) (rest : List Byte) (r : Fin 32) (j0 j1 : Fin 8) (shift : Nat) (m0 m1 : Byte),
    r.val = row % 32 → shift = col % 64 % 8 → j0.val = col % 64 / 8 → j1.val = (j0.val + 1) % 8 →
    m0 = b >>> shift → m1 = (if shift = 0 then 0 else b <<< (8 - shift)) →
    packedByte (compose f row col [b]).1 r j0 = packedByte f r j0 ^^^ m0 ∧
    packedByte (compose f row col [b]).1 r j1 = packedByte f r j1 ^^^ m1 ∧
    (∀ (r' : Fin 32) (j : Fin 8), (r' ≠ r ∨ (j ≠ j0 ∧ j ≠ j1)) →
      packedByte (compose f row col [b]).1 r' j = packedByte f r' j) ∧
    ((compose f row col [b]).2 = true ↔ packedByte f r j0 &&& m0 ≠ 0 ∨ packedByte f r j1 &&& m1 ≠ 0) ∧
    (compose f row col (b :: rest)).1 = (compose (compose f row col [b]).1 (row + 1) col rest).1 ∧
    (compose f row col (b :: rest)).2 =
      ((compose f row col [b]).2 || (compose (compose f row col [b]).1 (row + 1) col rest).2)

/-- R213 (`n = 0`, decision D21, log 26; 64 by 32, D7, log 8; `VF` last, D35, log 12; `I` unchanged, D11, log 11): where its
bytes are in range `Draw` flips the pixels that the sprite at `I` covers at row `Vy`, column `Vx` (both read before `VF` is
written), sets `VF` to 1 or 0 as some pixel was erased or none, and changes nothing else. -/
def Obligations.DrawComposesTheSpriteAtI : Prop :=
  ∀ (s : State) (x y : RegIx) (n : Nibble), (n = 0 ∨ s.i.toNat + n.toNat ≤ 4096) →
    Completes (.draw x y n) s fun t =>
      ∃ sprite : List Byte, sprite.length = n.toNat ∧
        (∀ k (h : k < sprite.length), memRead s (s.i.toNat + k) = .ok sprite[k]) ∧
        (∀ r c, pixel t.fb r c =
          (pixel s.fb r c ^^ spriteCovers (s.getV y).toNat (s.getV x).toNat sprite r c)) ∧
        (t.getV vf = 0 ∨ t.getV vf = 1) ∧
        (t.getV vf = 1 ↔ ∃ r c, pixel s.fb r c = true ∧ pixel t.fb r c = false) ∧
        SameBut [.frame, .reg vf] s t

/-! ## Timers and keys -/

/-- R230, R231, R232 (adopted table, decision D1, log 7): the three timer instructions copy `DT` to `Vx`, `Vx` to `DT`, `Vx`
to `ST`, and change nothing else. -/
def Obligations.TimerInstructionsCopyOneByte : Prop :=
  ∀ (s : State) (x : RegIx),
    (Completes (.getDelay x) s fun t => t.getV x = s.dt ∧ SameBut [.reg x] s t) ∧
    (Completes (.setDelay x) s fun t => t.dt = s.getV x ∧ SameBut [.delay] s t) ∧
    (Completes (.setSound x) s fun t => t.st = s.getV x ∧ SameBut [.sound] s t)

/-- R233, R234, R236 (two opposite skips, decision D1, log 7; 2 bytes, D32, log 13; all 8 bits compared, D16, and no key,
D17, log 14): with a valid latch the two key skips move `PC` 2 further, modulo 65536, exactly when the pressed key is, or is
not, the number in `Vx`; with an invalid one both raise `InvalidKey` and change nothing. -/
def Obligations.KeySkipsCompareTheLatch : Prop :=
  ∀ (s : State) (x : RegIx),
    (s.key ≠ .invalid →
      (Completes (.skipKeyPressed x) s fun t =>
        ((∃ k : Nibble, s.key = .key k ∧ k.toNat = (s.getV x).toNat) → t.pc.toNat = (s.pc.toNat + 2) % 65536) ∧
        ((¬∃ k : Nibble, s.key = .key k ∧ k.toNat = (s.getV x).toNat) → t.pc = s.pc) ∧ SameBut [.pc] s t) ∧
      (Completes (.skipKeyNotPressed x) s fun t =>
        ((∃ k : Nibble, s.key = .key k ∧ k.toNat = (s.getV x).toNat) → t.pc = s.pc) ∧
        ((¬∃ k : Nibble, s.key = .key k ∧ k.toNat = (s.getV x).toNat) → t.pc.toNat = (s.pc.toNat + 2) % 65536) ∧
        SameBut [.pc] s t)) ∧
    (s.key = .invalid →
      exec (.skipKeyPressed x) s = .fault (.stepError .invalidKey s) ∧
      exec (.skipKeyNotPressed x) s = .fault (.stepError .invalidKey s))

/-- R235, R236 (held key taken at once, latch kept, decision D18, log 14): with no key `WaitForKey` takes `PC` back by 2
(modulo 65536 in states no run reaches, log 22) and leaves `Vx`; with a key it puts its number in `Vx` and leaves `PC`; with
an invalid latch it raises `InvalidKey` and changes nothing. -/
def Obligations.WaitForKeyWaitsOrTakesTheKey : Prop :=
  ∀ (s : State) (x : RegIx),
    (s.key = .none → Completes (.waitForKey x) s fun t =>
      (t.pc.toNat + 2) % 65536 = s.pc.toNat ∧ SameBut [.pc] s t) ∧
    (∀ k : Nibble, s.key = .key k → Completes (.waitForKey x) s fun t =>
      (t.getV x).toNat = k.toNat ∧ SameBut [.reg x] s t) ∧
    (s.key = .invalid → exec (.waitForKey x) s = .fault (.stepError .invalidKey s))

/-! ## The host's transactions -/

/-- R237: `TICK` cannot fail, takes 1 from each timer with a floor of 0, independently, and changes nothing else. -/
def Obligations.TickDecrementsWithFloor : Prop :=
  ∀ s : State, ∃ t, hostMove .tick s = .next t ∧ t.dt.toNat = s.dt.toNat - 1 ∧ t.st.toNat = s.st.toNat - 1 ∧
    SameBut [.delay, .sound] s t

/-- R237, R241 (b) (derived there): `n` ticks take `n` from each timer and stop at 0, so a timer is 0 after as many ticks as
it held, and not before. -/
def Obligations.TimersReachZeroAfterTheirTicks : Prop :=
  ∀ (s : State) (n : Nat),
    (tick^[n] s).dt.toNat = s.dt.toNat - n ∧ (tick^[n] s).st.toNat = s.st.toNat - n ∧
    ((tick^[n] s).dt = 0 ↔ s.dt.toNat ≤ n)

/-- R238, R239: `KEY_PRESS` of the `k`-th key string latches `k` and of any other string latches `Invalid`, whatever was
latched before; `KEY_RELEASE` empties the latch; neither can fail and neither changes anything else. That exactly these
sixteen strings are keys is decision D31 (log 18). -/
def Obligations.KeyTransactionsSetTheLatch : Prop :=
  ∀ s : State,
    (∀ k : Fin 16, ∃ t, hostMove (.keyPress (keyStrings.getD k.val "")) s = .next t ∧
      t.key = .key (BitVec.ofNat 4 k.val) ∧ SameBut [.latch] s t) ∧
    (∀ key, key ∉ keyStrings → ∃ t, hostMove (.keyPress key) s = .next t ∧ t.key = .invalid ∧ SameBut [.latch] s t) ∧
    ∃ t, hostMove .keyRelease s = .next t ∧ t.key = .none ∧ SameBut [.latch] s t

/-- R33, R290, R215: `RESET` from any state cannot fail and leaves the glyph table at 0, zero in every other byte and `PC` at
0x200. The glyph bytes are decision D8 (log 6); the zeros, the empty stack, the empty latch and the clear display are
decision D19 (log 5). -/
def Obligations.ResetGivesTheResetState : Prop :=
  ∀ s : State, ∃ t, hostMove .reset s = .next t ∧
    (∀ a < 4096, memRead t a = .ok (printedGlyphs.getD a 0)) ∧ t.pc = 0x200 ∧
    (∀ k, t.getV k = 0) ∧ t.i = 0 ∧ t.sp.val = 0 ∧ (∀ k : Fin 16, t.stack[k.val] = 0) ∧
    t.dt = 0 ∧ t.st = 0 ∧ t.key = .none ∧ (∀ r c, pixel t.fb r c = false)

/-- R291 (an image too long, decision D27, log 17): an image of up to 3584 bytes is copied verbatim to 0x200 and nothing else
changes; of a longer one the first 3584 bytes are written and `AddressOutOfBounds(4096)` is raised. -/
def Obligations.LoadCopiesTheImage : Prop :=
  ∀ (s : State) (image : List Byte), s.mem.wf →
    (image.length ≤ 3584 → ∃ t, hostMove (.load image) s = .next t ∧
      (∀ k (h : k < image.length), memRead t (0x200 + k) = .ok image[k]) ∧
      SameBut (bytesFrom 0x200 image.length) s t) ∧
    (3584 < image.length → ∃ left, hostMove (.load image) s = .fault (.stepError (.addressOutOfBounds 4096) left) ∧
      (∀ k (h : k < image.length), k < 3584 → memRead left (0x200 + k) = .ok image[k]) ∧
      SameBut (bytesFrom 0x200 3584) s left)

/-- R292 (the launch premise; the reset values, decision D19, log 5; the schedule, D28, log 3): from any state, `RESET` then
`LOAD` of an image that fits leave the reset state with the image at 0x200, `PC` on its first byte, and the host's further
transactions still to come. -/
def Obligations.BootThenLoadIsTheLaunchState : Prop :=
  ∀ (s : State) (image : List Byte) (rest : List Transaction), image.length ≤ 3584 →
    s.schedule = .host .reset :: .host (.load image) :: rest →
    ∃ t, Sys2Proof.core.run 2 s = .next t ∧ t.pc = 0x200 ∧ t.schedule = rest ∧ t.mem.wf ∧
      (∀ k (h : k < image.length), memRead t (0x200 + k) = .ok image[k]) ∧
      SameBut (bytesFrom 0x200 image.length ++ [.draws, .schedule]) State.reset t

/-- R296 (decision D33, log 25) and R235: a `STEP` from a self-jump, and a `STEP` of `WaitForKey` with no key, answer the
very state they began in. -/
def Obligations.SelfJumpAndWaitingAreFixedPoints : Prop :=
  ∀ s : State, s.schedule = [] →
    (Finished s → step s = .next s) ∧
    ∀ x : RegIx, fetchDecode s = .ok (.waitForKey x) → s.key = .none → step s = .next s
end

