-- ==== Sys2Proof/Laws/Decode.lean ====
section
/-! SUPPORT. The laws of the encoding's fields: a word is its two bytes, each field of an encoded word, and no two rows of
the opcode map share a word. -/

namespace Sys2Proof

@[simp] theorem wordOf_high_low (w : Word) : wordOf (highByte w) (lowByte w) = w := by
  apply BitVec.eq_of_getLsbD_eq
  intro i hi
  simp only [wordOf, BitVec.getLsbD_append, highByte, lowByte, BitVec.getLsbD_extractLsb']
  interval_cases i <;> simp

/-- Decoding the two bytes of a word is decoding the word. -/
theorem decode_high_low (w : Word) : decode (highByte w) (lowByte w) = decodeWord w := by
  rw [decode, wordOf_high_low]

/-! ### The fields of a word with operands put in -/

theorem and_formatXY (m : Word) (x y : RegIx) :
    (m ||| x.setWidth 16 <<< 8 ||| y.setWidth 16 <<< 4) &&& 0xF00F = m &&& 0xF00F := by
  have hx : (x.setWidth 16 <<< 8) &&& 0xF00F = 0#16 := by revert x; decide
  have hy : (y.setWidth 16 <<< 4) &&& 0xF00F = 0#16 := by revert y; decide
  rw [BitVec.and_or_distrib_right, BitVec.and_or_distrib_right, hx, hy, BitVec.or_zero, BitVec.or_zero]

theorem and_formatXS (m : Word) (x : RegIx) : (m ||| x.setWidth 16 <<< 8) &&& 0xF0FF = m &&& 0xF0FF := by
  have hx : (x.setWidth 16 <<< 8) &&& 0xF0FF = 0#16 := by revert x; decide
  rw [BitVec.and_or_distrib_right, hx, BitVec.or_zero]

theorem and_formatA (m : Word) (nnn : Addr12) : (m ||| nnn.setWidth 16) &&& 0xF000 = m &&& 0xF000 := by
  apply BitVec.eq_of_getLsbD_eq
  intro i hi
  simp only [BitVec.getLsbD_and, BitVec.getLsbD_or, BitVec.getLsbD_setWidth]
  interval_cases i <;> simp

theorem and_formatXI (m : Word) (x : RegIx) (nn : Byte) :
    (m ||| x.setWidth 16 <<< 8 ||| nn.setWidth 16) &&& 0xF000 = m &&& 0xF000 := by
  have hx : (x.setWidth 16 <<< 8) &&& 0xF000 = 0#16 := by revert x; decide
  have hn : (nn.setWidth 16) &&& 0xF000 = 0#16 := by
    apply BitVec.eq_of_getLsbD_eq
    intro i hi
    simp only [BitVec.getLsbD_and, BitVec.getLsbD_setWidth]
    interval_cases i <;> simp
  rw [BitVec.and_or_distrib_right, BitVec.and_or_distrib_right, hx, hn, BitVec.or_zero, BitVec.or_zero]

theorem and_formatXYN (m : Word) (x y : RegIx) (n : Nibble) :
    (m ||| x.setWidth 16 <<< 8 ||| y.setWidth 16 <<< 4 ||| n.setWidth 16) &&& 0xF000 = m &&& 0xF000 := by
  have hx : (x.setWidth 16 <<< 8) &&& 0xF000 = 0#16 := by revert x; decide
  have hy : (y.setWidth 16 <<< 4) &&& 0xF000 = 0#16 := by revert y; decide
  have hn : (n.setWidth 16) &&& 0xF000 = 0#16 := by revert n; decide
  rw [BitVec.and_or_distrib_right, BitVec.and_or_distrib_right, BitVec.and_or_distrib_right, hx, hy, hn, BitVec.or_zero,
    BitVec.or_zero, BitVec.or_zero]

/-- The fields of a word in format A. -/
theorem fields_formatA (m : Word) (nnn : Addr12) :
    famOf (m ||| nnn.setWidth 16) = famOf m ∧ nnnOf (m ||| nnn.setWidth 16) = nnnOf m ||| nnn := by
  constructor
  all_goals
    apply BitVec.eq_of_getLsbD_eq
    intro i hi
    simp only [famOf, nnnOf, BitVec.getLsbD_extractLsb', BitVec.getLsbD_or, BitVec.getLsbD_setWidth]
    interval_cases i <;> simp

/-- The fields of a word in format XI. -/
theorem fields_formatXI (m : Word) (x : RegIx) (nn : Byte) :
    famOf (m ||| x.setWidth 16 <<< 8 ||| nn.setWidth 16) = famOf m ∧
    xOf (m ||| x.setWidth 16 <<< 8 ||| nn.setWidth 16) = xOf m ||| x ∧
    nnOf (m ||| x.setWidth 16 <<< 8 ||| nn.setWidth 16) = nnOf m ||| nn := by
  refine ⟨?_, ?_, ?_⟩
  all_goals
    apply BitVec.eq_of_getLsbD_eq
    intro i hi
    simp [famOf, xOf, nnOf]
    interval_cases i <;> simp

/-- The fields of a word in format XY. -/
theorem fields_formatXY (m : Word) (x y : RegIx) :
    famOf (m ||| x.setWidth 16 <<< 8 ||| y.setWidth 16 <<< 4) = famOf m ∧
    xOf (m ||| x.setWidth 16 <<< 8 ||| y.setWidth 16 <<< 4) = xOf m ||| x ∧
    yOf (m ||| x.setWidth 16 <<< 8 ||| y.setWidth 16 <<< 4) = yOf m ||| y ∧
    nOf (m ||| x.setWidth 16 <<< 8 ||| y.setWidth 16 <<< 4) = nOf m := by
  refine ⟨?_, ?_, ?_, ?_⟩
  all_goals
    apply BitVec.eq_of_getLsbD_eq
    intro i hi
    simp [famOf, xOf, yOf, nOf]
    interval_cases i <;> simp

/-- The fields of a word in format XYN. -/
theorem fields_formatXYN (m : Word) (x y : RegIx) (n : Nibble) :
    famOf (m ||| x.setWidth 16 <<< 8 ||| y.setWidth 16 <<< 4 ||| n.setWidth 16) = famOf m ∧
    xOf (m ||| x.setWidth 16 <<< 8 ||| y.setWidth 16 <<< 4 ||| n.setWidth 16) = xOf m ||| x ∧
    yOf (m ||| x.setWidth 16 <<< 8 ||| y.setWidth 16 <<< 4 ||| n.setWidth 16) = yOf m ||| y ∧
    nOf (m ||| x.setWidth 16 <<< 8 ||| y.setWidth 16 <<< 4 ||| n.setWidth 16) = nOf m ||| n := by
  refine ⟨?_, ?_, ?_, ?_⟩
  all_goals
    apply BitVec.eq_of_getLsbD_eq
    intro i hi
    simp [famOf, xOf, yOf, nOf]
    interval_cases i <;> simp

/-- The fields of a word in format XS. -/
theorem fields_formatXS (m : Word) (x : RegIx) :
    famOf (m ||| x.setWidth 16 <<< 8) = famOf m ∧ xOf (m ||| x.setWidth 16 <<< 8) = xOf m ||| x ∧
    nnOf (m ||| x.setWidth 16 <<< 8) = nnOf m := by
  refine ⟨?_, ?_, ?_⟩
  all_goals
    apply BitVec.eq_of_getLsbD_eq
    intro i hi
    simp [famOf, xOf, nnOf]
    interval_cases i <;> simp

/-! ### The opcode map -/

/-- A match value lies within its mask (R96). -/
theorem matchBits_within_maskBits (m : Mnemonic) : m.matchBits &&& m.maskBits = m.matchBits := by
  cases m <;> decide

end Sys2Proof
end

