-- ==== Sys2Proof/Laws/Display.lean ====
section
/-! SUPPORT. The laws of the display: a pixel after a flip, the clear display, and one composed bit. -/

namespace Sys2Proof.Machine

@[simp] theorem rowOf_val (n : Nat) : (rowOf n).val = n % 32 := rfl

@[simp] theorem colOf_val (n : Nat) : (colOf n).val = n % 64 := rfl

/-- Flipping a pixel flips that pixel and no other. -/
theorem pixel_flipPixel (f : Frame) (r r' : Fin 32) (c c' : Fin 64) :
    pixel (flipPixel f r c) r' c' = (pixel f r' c' ^^ decide (r' = r ∧ c' = c)) := by
  have hbit : (BitVec.twoPow 64 (63 - c.val)).getMsbD c'.val = decide (c' = c) := by
    rw [BitVec.getMsbD_twoPow, Bool.eq_iff_iff]
    simp [Fin.ext_iff]
    omega
  by_cases hr : r' = r
  · subst hr
    simp [pixel, flipPixel, hbit]
  · have hne : r.val ≠ r'.val := fun h => hr (Fin.ext h.symm)
    simp [pixel, flipPixel, hr, hne]

@[simp] theorem pixel_clearFrame (r : Fin 32) (c : Fin 64) : pixel clearFrame r c = false := by
  simp [pixel, clearFrame]

/-- Two framebuffers with the same pixels are the same. -/
theorem frame_ext {f g : Frame} (h : ∀ r c, pixel f r c = pixel g r c) : f = g := by
  apply Vector.ext
  intro r hr
  apply BitVec.eq_of_getMsbD_eq
  intro c hc
  exact h ⟨r, hr⟩ ⟨c, hc⟩

/-- One sprite bit: its pixel flips when the bit is 1, and erases when the pixel was set. -/
theorem composeBit_cases (r : Fin 32) (col : Nat) (sprite : Byte) (p : Frame × Bool) (b : Nat) :
    (spriteBit sprite b = false ∧ composeBit r col sprite p b = p) ∨
    (spriteBit sprite b = true ∧
      composeBit r col sprite p b = (flipPixel p.1 r (colOf (col + b)), p.2 || pixel p.1 r (colOf (col + b)))) := by
  unfold composeBit
  cases spriteBit sprite b <;> simp

@[simp] theorem composeRows_nil (row col : Nat) (p : Frame × Bool) : composeRows row col [] p = p := rfl

theorem composeRows_cons (row col : Nat) (b : Byte) (bs : List Byte) (p : Frame × Bool) :
    composeRows row col (b :: bs) p = composeRows (row + 1) col bs (composeByte (rowOf row) col b p) := rfl

end Sys2Proof.Machine
end

