-- ==== Sys2Proof/Laws/State.lean ====
section
/-! SUPPORT. One lemma per field per update of State, true by rfl, and the reads of a register after each update. -/

namespace Sys2Proof.Machine

variable (s : State)

/-! ### `setV` -/

@[simp] theorem State.setV_v (k : RegIx) (b : Byte) : (s.setV k b).v = s.v.set k.toNat b := rfl
@[simp] theorem State.setV_i (k : RegIx) (b : Byte) : (s.setV k b).i = s.i := rfl
@[simp] theorem State.setV_pc (k : RegIx) (b : Byte) : (s.setV k b).pc = s.pc := rfl
@[simp] theorem State.setV_stack (k : RegIx) (b : Byte) : (s.setV k b).stack = s.stack := rfl
@[simp] theorem State.setV_sp (k : RegIx) (b : Byte) : (s.setV k b).sp = s.sp := rfl
@[simp] theorem State.setV_dt (k : RegIx) (b : Byte) : (s.setV k b).dt = s.dt := rfl
@[simp] theorem State.setV_st (k : RegIx) (b : Byte) : (s.setV k b).st = s.st := rfl
@[simp] theorem State.setV_key (k : RegIx) (b : Byte) : (s.setV k b).key = s.key := rfl
@[simp] theorem State.setV_fb (k : RegIx) (b : Byte) : (s.setV k b).fb = s.fb := rfl
@[simp] theorem State.setV_mem (k : RegIx) (b : Byte) : (s.setV k b).mem = s.mem := rfl
@[simp] theorem State.setV_draws (k : RegIx) (b : Byte) : (s.setV k b).draws = s.draws := rfl
@[simp] theorem State.setV_schedule (k : RegIx) (b : Byte) : (s.setV k b).schedule = s.schedule := rfl

/-! ### `setI` -/

@[simp] theorem State.setI_v (w : Word) : (s.setI w).v = s.v := rfl
@[simp] theorem State.setI_i (w : Word) : (s.setI w).i = w := rfl
@[simp] theorem State.setI_pc (w : Word) : (s.setI w).pc = s.pc := rfl
@[simp] theorem State.setI_stack (w : Word) : (s.setI w).stack = s.stack := rfl
@[simp] theorem State.setI_sp (w : Word) : (s.setI w).sp = s.sp := rfl
@[simp] theorem State.setI_dt (w : Word) : (s.setI w).dt = s.dt := rfl
@[simp] theorem State.setI_st (w : Word) : (s.setI w).st = s.st := rfl
@[simp] theorem State.setI_key (w : Word) : (s.setI w).key = s.key := rfl
@[simp] theorem State.setI_fb (w : Word) : (s.setI w).fb = s.fb := rfl
@[simp] theorem State.setI_mem (w : Word) : (s.setI w).mem = s.mem := rfl
@[simp] theorem State.setI_draws (w : Word) : (s.setI w).draws = s.draws := rfl
@[simp] theorem State.setI_schedule (w : Word) : (s.setI w).schedule = s.schedule := rfl
@[simp] theorem State.getV_setI (w : Word) (j : RegIx) : (s.setI w).getV j = s.getV j := rfl

/-! ### `setPc` -/

@[simp] theorem State.setPc_v (w : Word) : (s.setPc w).v = s.v := rfl
@[simp] theorem State.setPc_i (w : Word) : (s.setPc w).i = s.i := rfl
@[simp] theorem State.setPc_pc (w : Word) : (s.setPc w).pc = w := rfl
@[simp] theorem State.setPc_stack (w : Word) : (s.setPc w).stack = s.stack := rfl
@[simp] theorem State.setPc_sp (w : Word) : (s.setPc w).sp = s.sp := rfl
@[simp] theorem State.setPc_dt (w : Word) : (s.setPc w).dt = s.dt := rfl
@[simp] theorem State.setPc_st (w : Word) : (s.setPc w).st = s.st := rfl
@[simp] theorem State.setPc_key (w : Word) : (s.setPc w).key = s.key := rfl
@[simp] theorem State.setPc_fb (w : Word) : (s.setPc w).fb = s.fb := rfl
@[simp] theorem State.setPc_mem (w : Word) : (s.setPc w).mem = s.mem := rfl
@[simp] theorem State.setPc_draws (w : Word) : (s.setPc w).draws = s.draws := rfl
@[simp] theorem State.setPc_schedule (w : Word) : (s.setPc w).schedule = s.schedule := rfl
@[simp] theorem State.getV_setPc (w : Word) (j : RegIx) : (s.setPc w).getV j = s.getV j := rfl

/-! ### `setStack` -/

@[simp] theorem State.setStack_v (es : Vector Word 16) (n : Fin 17) : (s.setStack es n).v = s.v := rfl
@[simp] theorem State.setStack_i (es : Vector Word 16) (n : Fin 17) : (s.setStack es n).i = s.i := rfl
@[simp] theorem State.setStack_pc (es : Vector Word 16) (n : Fin 17) : (s.setStack es n).pc = s.pc := rfl
@[simp] theorem State.setStack_stack (es : Vector Word 16) (n : Fin 17) : (s.setStack es n).stack = es := rfl
@[simp] theorem State.setStack_sp (es : Vector Word 16) (n : Fin 17) : (s.setStack es n).sp = n := rfl
@[simp] theorem State.setStack_dt (es : Vector Word 16) (n : Fin 17) : (s.setStack es n).dt = s.dt := rfl
@[simp] theorem State.setStack_st (es : Vector Word 16) (n : Fin 17) : (s.setStack es n).st = s.st := rfl
@[simp] theorem State.setStack_key (es : Vector Word 16) (n : Fin 17) : (s.setStack es n).key = s.key := rfl
@[simp] theorem State.setStack_fb (es : Vector Word 16) (n : Fin 17) : (s.setStack es n).fb = s.fb := rfl
@[simp] theorem State.setStack_mem (es : Vector Word 16) (n : Fin 17) : (s.setStack es n).mem = s.mem := rfl
@[simp] theorem State.setStack_draws (es : Vector Word 16) (n : Fin 17) : (s.setStack es n).draws = s.draws := rfl
@[simp] theorem State.setStack_schedule (es : Vector Word 16) (n : Fin 17) : (s.setStack es n).schedule = s.schedule := rfl
@[simp] theorem State.getV_setStack (es : Vector Word 16) (n : Fin 17) (j : RegIx) : (s.setStack es n).getV j = s.getV j := rfl

/-! ### `setDt` -/

@[simp] theorem State.setDt_v (b : Byte) : (s.setDt b).v = s.v := rfl
@[simp] theorem State.setDt_i (b : Byte) : (s.setDt b).i = s.i := rfl
@[simp] theorem State.setDt_pc (b : Byte) : (s.setDt b).pc = s.pc := rfl
@[simp] theorem State.setDt_stack (b : Byte) : (s.setDt b).stack = s.stack := rfl
@[simp] theorem State.setDt_sp (b : Byte) : (s.setDt b).sp = s.sp := rfl
@[simp] theorem State.setDt_dt (b : Byte) : (s.setDt b).dt = b := rfl
@[simp] theorem State.setDt_st (b : Byte) : (s.setDt b).st = s.st := rfl
@[simp] theorem State.setDt_key (b : Byte) : (s.setDt b).key = s.key := rfl
@[simp] theorem State.setDt_fb (b : Byte) : (s.setDt b).fb = s.fb := rfl
@[simp] theorem State.setDt_mem (b : Byte) : (s.setDt b).mem = s.mem := rfl
@[simp] theorem State.setDt_draws (b : Byte) : (s.setDt b).draws = s.draws := rfl
@[simp] theorem State.setDt_schedule (b : Byte) : (s.setDt b).schedule = s.schedule := rfl
@[simp] theorem State.getV_setDt (b : Byte) (j : RegIx) : (s.setDt b).getV j = s.getV j := rfl

/-! ### `setSt` -/

@[simp] theorem State.setSt_v (b : Byte) : (s.setSt b).v = s.v := rfl
@[simp] theorem State.setSt_i (b : Byte) : (s.setSt b).i = s.i := rfl
@[simp] theorem State.setSt_pc (b : Byte) : (s.setSt b).pc = s.pc := rfl
@[simp] theorem State.setSt_stack (b : Byte) : (s.setSt b).stack = s.stack := rfl
@[simp] theorem State.setSt_sp (b : Byte) : (s.setSt b).sp = s.sp := rfl
@[simp] theorem State.setSt_dt (b : Byte) : (s.setSt b).dt = s.dt := rfl
@[simp] theorem State.setSt_st (b : Byte) : (s.setSt b).st = b := rfl
@[simp] theorem State.setSt_key (b : Byte) : (s.setSt b).key = s.key := rfl
@[simp] theorem State.setSt_fb (b : Byte) : (s.setSt b).fb = s.fb := rfl
@[simp] theorem State.setSt_mem (b : Byte) : (s.setSt b).mem = s.mem := rfl
@[simp] theorem State.setSt_draws (b : Byte) : (s.setSt b).draws = s.draws := rfl
@[simp] theorem State.setSt_schedule (b : Byte) : (s.setSt b).schedule = s.schedule := rfl
@[simp] theorem State.getV_setSt (b : Byte) (j : RegIx) : (s.setSt b).getV j = s.getV j := rfl

/-! ### `setKey` -/

@[simp] theorem State.setKey_v (l : Latch) : (s.setKey l).v = s.v := rfl
@[simp] theorem State.setKey_i (l : Latch) : (s.setKey l).i = s.i := rfl
@[simp] theorem State.setKey_pc (l : Latch) : (s.setKey l).pc = s.pc := rfl
@[simp] theorem State.setKey_stack (l : Latch) : (s.setKey l).stack = s.stack := rfl
@[simp] theorem State.setKey_sp (l : Latch) : (s.setKey l).sp = s.sp := rfl
@[simp] theorem State.setKey_dt (l : Latch) : (s.setKey l).dt = s.dt := rfl
@[simp] theorem State.setKey_st (l : Latch) : (s.setKey l).st = s.st := rfl
@[simp] theorem State.setKey_key (l : Latch) : (s.setKey l).key = l := rfl
@[simp] theorem State.setKey_fb (l : Latch) : (s.setKey l).fb = s.fb := rfl
@[simp] theorem State.setKey_mem (l : Latch) : (s.setKey l).mem = s.mem := rfl
@[simp] theorem State.setKey_draws (l : Latch) : (s.setKey l).draws = s.draws := rfl
@[simp] theorem State.setKey_schedule (l : Latch) : (s.setKey l).schedule = s.schedule := rfl
@[simp] theorem State.getV_setKey (l : Latch) (j : RegIx) : (s.setKey l).getV j = s.getV j := rfl

/-! ### `setFb` -/

@[simp] theorem State.setFb_v (f : Frame) : (s.setFb f).v = s.v := rfl
@[simp] theorem State.setFb_i (f : Frame) : (s.setFb f).i = s.i := rfl
@[simp] theorem State.setFb_pc (f : Frame) : (s.setFb f).pc = s.pc := rfl
@[simp] theorem State.setFb_stack (f : Frame) : (s.setFb f).stack = s.stack := rfl
@[simp] theorem State.setFb_sp (f : Frame) : (s.setFb f).sp = s.sp := rfl
@[simp] theorem State.setFb_dt (f : Frame) : (s.setFb f).dt = s.dt := rfl
@[simp] theorem State.setFb_st (f : Frame) : (s.setFb f).st = s.st := rfl
@[simp] theorem State.setFb_key (f : Frame) : (s.setFb f).key = s.key := rfl
@[simp] theorem State.setFb_fb (f : Frame) : (s.setFb f).fb = f := rfl
@[simp] theorem State.setFb_mem (f : Frame) : (s.setFb f).mem = s.mem := rfl
@[simp] theorem State.setFb_draws (f : Frame) : (s.setFb f).draws = s.draws := rfl
@[simp] theorem State.setFb_schedule (f : Frame) : (s.setFb f).schedule = s.schedule := rfl
@[simp] theorem State.getV_setFb (f : Frame) (j : RegIx) : (s.setFb f).getV j = s.getV j := rfl

/-! ### `setMem` -/

@[simp] theorem State.setMem_v (m : Memory) : (s.setMem m).v = s.v := rfl
@[simp] theorem State.setMem_i (m : Memory) : (s.setMem m).i = s.i := rfl
@[simp] theorem State.setMem_pc (m : Memory) : (s.setMem m).pc = s.pc := rfl
@[simp] theorem State.setMem_stack (m : Memory) : (s.setMem m).stack = s.stack := rfl
@[simp] theorem State.setMem_sp (m : Memory) : (s.setMem m).sp = s.sp := rfl
@[simp] theorem State.setMem_dt (m : Memory) : (s.setMem m).dt = s.dt := rfl
@[simp] theorem State.setMem_st (m : Memory) : (s.setMem m).st = s.st := rfl
@[simp] theorem State.setMem_key (m : Memory) : (s.setMem m).key = s.key := rfl
@[simp] theorem State.setMem_fb (m : Memory) : (s.setMem m).fb = s.fb := rfl
@[simp] theorem State.setMem_mem (m : Memory) : (s.setMem m).mem = m := rfl
@[simp] theorem State.setMem_draws (m : Memory) : (s.setMem m).draws = s.draws := rfl
@[simp] theorem State.setMem_schedule (m : Memory) : (s.setMem m).schedule = s.schedule := rfl
@[simp] theorem State.getV_setMem (m : Memory) (j : RegIx) : (s.setMem m).getV j = s.getV j := rfl

/-! ### `setDraws` -/

@[simp] theorem State.setDraws_v (n : Nat) : (s.setDraws n).v = s.v := rfl
@[simp] theorem State.setDraws_i (n : Nat) : (s.setDraws n).i = s.i := rfl
@[simp] theorem State.setDraws_pc (n : Nat) : (s.setDraws n).pc = s.pc := rfl
@[simp] theorem State.setDraws_stack (n : Nat) : (s.setDraws n).stack = s.stack := rfl
@[simp] theorem State.setDraws_sp (n : Nat) : (s.setDraws n).sp = s.sp := rfl
@[simp] theorem State.setDraws_dt (n : Nat) : (s.setDraws n).dt = s.dt := rfl
@[simp] theorem State.setDraws_st (n : Nat) : (s.setDraws n).st = s.st := rfl
@[simp] theorem State.setDraws_key (n : Nat) : (s.setDraws n).key = s.key := rfl
@[simp] theorem State.setDraws_fb (n : Nat) : (s.setDraws n).fb = s.fb := rfl
@[simp] theorem State.setDraws_mem (n : Nat) : (s.setDraws n).mem = s.mem := rfl
@[simp] theorem State.setDraws_draws (n : Nat) : (s.setDraws n).draws = n := rfl
@[simp] theorem State.setDraws_schedule (n : Nat) : (s.setDraws n).schedule = s.schedule := rfl
@[simp] theorem State.getV_setDraws (n : Nat) (j : RegIx) : (s.setDraws n).getV j = s.getV j := rfl

/-! ### `setSchedule` -/

@[simp] theorem State.setSchedule_v (ts : List Transaction) : (s.setSchedule ts).v = s.v := rfl
@[simp] theorem State.setSchedule_i (ts : List Transaction) : (s.setSchedule ts).i = s.i := rfl
@[simp] theorem State.setSchedule_pc (ts : List Transaction) : (s.setSchedule ts).pc = s.pc := rfl
@[simp] theorem State.setSchedule_stack (ts : List Transaction) : (s.setSchedule ts).stack = s.stack := rfl
@[simp] theorem State.setSchedule_sp (ts : List Transaction) : (s.setSchedule ts).sp = s.sp := rfl
@[simp] theorem State.setSchedule_dt (ts : List Transaction) : (s.setSchedule ts).dt = s.dt := rfl
@[simp] theorem State.setSchedule_st (ts : List Transaction) : (s.setSchedule ts).st = s.st := rfl
@[simp] theorem State.setSchedule_key (ts : List Transaction) : (s.setSchedule ts).key = s.key := rfl
@[simp] theorem State.setSchedule_fb (ts : List Transaction) : (s.setSchedule ts).fb = s.fb := rfl
@[simp] theorem State.setSchedule_mem (ts : List Transaction) : (s.setSchedule ts).mem = s.mem := rfl
@[simp] theorem State.setSchedule_draws (ts : List Transaction) : (s.setSchedule ts).draws = s.draws := rfl
@[simp] theorem State.setSchedule_schedule (ts : List Transaction) : (s.setSchedule ts).schedule = ts := rfl
@[simp] theorem State.getV_setSchedule (ts : List Transaction) (j : RegIx) : (s.setSchedule ts).getV j = s.getV j := rfl

/-! ### A register after a register write -/

@[simp] theorem State.getV_setV (k j : RegIx) (b : Byte) :
    (s.setV k b).getV j = if j = k then b else s.getV j := by
  simp [State.getV, Vector.getElem_set, BitVec.toNat_inj, eq_comm]

theorem State.getV_setV_same (k : RegIx) (b : Byte) : (s.setV k b).getV k = b := by simp

theorem State.getV_setV_other {k j : RegIx} (b : Byte) (h : j ≠ k) : (s.setV k b).getV j = s.getV j := by simp [h]

/-- Every register of the reset state holds zero. -/
@[simp] theorem State.getV_reset (k : RegIx) : State.reset.getV k = 0 := by simp [State.getV, State.reset]

/-- Writing back the value an item has changes nothing. -/
@[simp] theorem State.setI_self : s.setI s.i = s := rfl
@[simp] theorem State.setPc_self : s.setPc s.pc = s := rfl
@[simp] theorem State.setMem_self : s.setMem s.mem = s := rfl
@[simp] theorem State.setPc_setPc (w w' : Word) : (s.setPc w).setPc w' = s.setPc w' := rfl
@[simp] theorem State.setMem_setMem (m m' : Memory) : (s.setMem m).setMem m' = s.setMem m' := rfl
@[simp] theorem State.setSt_setSt (b b' : Byte) : (s.setSt b).setSt b' = s.setSt b' := rfl

end Sys2Proof.Machine
end

