-- ==== Sys2Proof/Laws/Memory.lean ====
section
/-! SUPPORT. The laws of memory: a byte read after a write, and that every memory operation keeps the canonical form. -/

namespace Sys2Proof.Machine

@[simp] theorem Memory.byteAt_nil (a : Nat) : Memory.byteAt [] a = unlistedByte a := rfl

theorem Memory.byteAt_cons_same (a : Nat) (b : Byte) (rest : Memory) (h : Memory.byteAt rest a = unlistedByte a) :
    Memory.byteAt (Memory.cons a b rest) a = b := by
  unfold Memory.cons
  split
  · simp_all
  · simp [Memory.byteAt]

theorem Memory.byteAt_cons_other {a a' : Nat} (b : Byte) (rest : Memory) (h : a' ≠ a) :
    Memory.byteAt (Memory.cons a b rest) a' = Memory.byteAt rest a' := by
  unfold Memory.cons
  split
  · rfl
  · simp [Memory.byteAt, Ne.symm h]

/-- An address below every listed one reads as unlisted. -/
theorem Memory.byteAt_of_lt (m : Memory) (a : Nat) (h : ∀ c ∈ m, a < c.1) : Memory.byteAt m a = unlistedByte a := by
  induction m with
  | nil => rfl
  | cons c rest ih =>
    have hc : a < c.1 := h c (by simp)
    simp only [Memory.byteAt]
    rw [if_neg (by omega)]
    exact ih fun d hd => h d (by simp [hd])

/-- A write leaves every other byte alone. -/
theorem Memory.byteAt_put_other (m : Memory) {a a' : Nat} (b : Byte) (h : a' ≠ a) :
    (m.put a b).byteAt a' = m.byteAt a' := by
  induction m with
  | nil => exact Memory.byteAt_cons_other b [] h
  | cons c rest ih =>
    simp only [Memory.put]
    split
    · exact Memory.byteAt_cons_other b _ h
    · split
      · rename_i hk
        rw [Memory.byteAt_cons_other b _ h]
        simp [Memory.byteAt, ← hk, Ne.symm h]
      · simp only [Memory.byteAt]
        split
        · rfl
        · exact ih

/-- A byte written reads back, in a memory of canonical order. -/
theorem Memory.byteAt_put_same (m : Memory) (a : Nat) (b : Byte) (h : m.Pairwise fun c d => c.1 < d.1) :
    (m.put a b).byteAt a = b := by
  induction m with
  | nil => exact Memory.byteAt_cons_same a b [] rfl
  | cons c rest ih =>
    have hrest := (List.pairwise_cons.mp h).1
    simp only [Memory.put]
    split
    · rename_i hlt
      refine Memory.byteAt_cons_same a b _ (Memory.byteAt_of_lt _ a ?_)
      intro d hd
      rcases List.mem_cons.mp hd with rfl | hd
      · exact hlt
      · exact Nat.lt_trans hlt (hrest d hd)
    · split
      · rename_i hk
        refine Memory.byteAt_cons_same a b _ (Memory.byteAt_of_lt _ a ?_)
        intro d hd
        exact hk ▸ hrest d hd
      · rename_i hk
        simp only [Memory.byteAt]
        rw [if_neg (Ne.symm hk)]
        exact ih (List.pairwise_cons.mp h).2

/-- A byte after a write, in a memory of canonical form. -/
theorem Memory.byteAt_put (m : Memory) (a a' : Nat) (b : Byte) (h : m.wf) :
    (m.put a b).byteAt a' = if a' = a then b else m.byteAt a' := by
  split
  · rename_i he
    rw [he]
    exact Memory.byteAt_put_same m a b h.1
  · rename_i he
    exact Memory.byteAt_put_other m b he

/-- A cell of a written memory is a cell it had, or the one written. -/
theorem Memory.mem_put (m : Memory) (a : Nat) (b : Byte) (c : Host.Cell) (h : c ∈ m.put a b) :
    c ∈ m ∨ (c = (a, b) ∧ b ≠ unlistedByte a) := by
  have hcons : ∀ rest : Memory, c ∈ Memory.cons a b rest → c ∈ rest ∨ (c = (a, b) ∧ b ≠ unlistedByte a) := by
    intro rest hc
    unfold Memory.cons at hc
    split at hc
    · exact .inl hc
    · rename_i hb
      rcases List.mem_cons.mp hc with rfl | hc
      · exact .inr ⟨rfl, hb⟩
      · exact .inl hc
  induction m with
  | nil => exact hcons _ h
  | cons d rest ih =>
    simp only [Memory.put] at h
    split at h
    · exact hcons _ h
    · split at h
      · rcases hcons _ h with h | h
        · exact .inl (List.mem_cons_of_mem _ h)
        · exact .inr h
      · rcases List.mem_cons.mp h with rfl | h
        · exact .inl List.mem_cons_self
        · rcases ih h with h | h
          · exact .inl (List.mem_cons_of_mem _ h)
          · exact .inr h

theorem Memory.put_pairwise (m : Memory) (a : Nat) (b : Byte) (h : m.Pairwise fun c d => c.1 < d.1) :
    (m.put a b).Pairwise fun c d => c.1 < d.1 := by
  have hcons : ∀ rest : Memory, rest.Pairwise (fun c d => c.1 < d.1) → (∀ d ∈ rest, a < d.1) →
      (Memory.cons a b rest).Pairwise fun c d => c.1 < d.1 := by
    intro rest hr ha
    unfold Memory.cons
    split
    · exact hr
    · exact List.pairwise_cons.mpr ⟨ha, hr⟩
  induction m with
  | nil => exact hcons [] List.Pairwise.nil (by simp)
  | cons c rest ih =>
    obtain ⟨hc, hr⟩ := List.pairwise_cons.mp h
    simp only [Memory.put]
    split
    · rename_i hlt
      refine hcons _ h fun d hd => ?_
      rcases List.mem_cons.mp hd with rfl | hd
      · exact hlt
      · exact Nat.lt_trans hlt (hc d hd)
    · split
      · rename_i hk
        exact hcons rest hr fun d hd => hk ▸ hc d hd
      · rename_i hlt hk
        refine List.pairwise_cons.mpr ⟨fun d hd => ?_, ih hr⟩
        rcases Memory.mem_put rest a b d hd with hd | ⟨rfl, -⟩
        · exact hc d hd
        · show c.1 < a
          omega

/-- Writing a byte of the machine keeps the canonical form. -/
theorem Memory.put_wf (m : Memory) (a : Nat) (b : Byte) (h : m.wf) (ha : a < Config.memSize) : (m.put a b).wf := by
  refine ⟨Memory.put_pairwise m a b h.1, fun c hc => ?_⟩
  rcases Memory.mem_put m a b c hc with hc | ⟨rfl, hb⟩
  · exact h.2 c hc
  · exact ⟨ha, hb⟩

/-- Storing a word of the machine keeps the canonical form. -/
theorem putWord_wf (m : Memory) (a : Nat) (w : Word) (h : m.wf) (ha : a + 1 < Config.memSize) : (putWord m a w).wf :=
  Memory.put_wf _ _ _ (Memory.put_wf _ _ _ h (by omega)) ha

/-- The memory of the reset state is in canonical form. -/
theorem reset_mem_wf : State.reset.mem.wf := by decide

end Sys2Proof.Machine
end

