-- ==== Sys2Proof/Laws/Ops.lean ====
section
/-! SUPPORT. For each shared operation, once, everything it can do: what it answers and what the state it answers holds. -/

namespace Sys2Proof.Machine

/-! ### Taking an error -/

@[simp] theorem orRaise_ok {α : Type} (s : State) (a : α) (k : α → StepResult) : orRaise s (.ok a) k = k a := rfl

@[simp] theorem orRaise_error {α : Type} (s : State) (e : Error) (k : α → StepResult) :
    orRaise s (.error e) k = .fault (.stepError e s) := rfl

/-- A completed `orRaise` had a value to go on with. -/
theorem orRaise_next {α : Type} {s t : State} {r : Except Error α} {k : α → StepResult} (h : orRaise s r k = .next t) :
    ∃ a, r = .ok a ∧ k a = .next t := by
  cases r with
  | ok a => exact ⟨a, rfl, h⟩
  | error e => simp at h

/-- A failed `orRaise` raised the primitive's error in `s`, or went on and failed later. -/
theorem orRaise_fault {α : Type} {s left : State} {e : Error} {r : Except Error α} {k : α → StepResult}
    (h : orRaise s r k = .fault (.stepError e left)) :
    (r = .error e ∧ left = s) ∨ ∃ a, r = .ok a ∧ k a = .fault (.stepError e left) := by
  cases r with
  | ok a => exact .inr ⟨a, rfl, h⟩
  | error e' =>
    simp at h
    exact .inl ⟨by rw [h.1], h.2.symm⟩

/-! ### Memory access -/

theorem memRead_ok {s : State} {a : Nat} (h : a < Config.memSize) : memRead s a = .ok (s.mem.byteAt a) := if_pos h

theorem memRead_error {s : State} {a : Nat} (h : Config.memSize ≤ a) : memRead s a = .error (.addressOutOfBounds a) :=
  if_neg (Nat.not_lt.mpr h)

theorem memRead_cases {s : State} {a : Nat} {r : Except Error Byte} (h : memRead s a = r) :
    (a < Config.memSize ∧ r = .ok (s.mem.byteAt a)) ∨ (Config.memSize ≤ a ∧ r = .error (.addressOutOfBounds a)) := by
  rcases Nat.lt_or_ge a Config.memSize with ha | ha
  · exact .inl ⟨ha, by rw [← h, memRead_ok ha]⟩
  · exact .inr ⟨ha, by rw [← h, memRead_error ha]⟩

/-- A read sees the memory of the state and nothing else of it. -/
theorem memRead_congr {s t : State} (h : t.mem = s.mem) (a : Nat) : memRead t a = memRead s a := by
  simp [memRead, h]

theorem memWrite_ok {s : State} {a : Nat} (b : Byte) (h : a < Config.memSize) :
    memWrite s a b = .ok (s.setMem (s.mem.put a b)) := if_pos h

theorem memWrite_error {s : State} {a : Nat} (b : Byte) (h : Config.memSize ≤ a) :
    memWrite s a b = .error (.addressOutOfBounds a) := if_neg (Nat.not_lt.mpr h)

/-! ### The call stack and the latch -/

theorem push_ok {s : State} (w : Word) (h : s.sp.val < 16) :
    push s w = .ok (s.setStack (s.stack.set s.sp.val w) ⟨s.sp.val + 1, by omega⟩) := dif_pos h

theorem push_error {s : State} (w : Word) (h : s.sp.val = 16) : push s w = .error .stackOverflow :=
  dif_neg (by simp [h])

theorem pop_ok {s : State} (h : 0 < s.sp.val) :
    pop s = .ok (s.stack[s.sp.val - 1], s.setStack s.stack ⟨s.sp.val - 1, by omega⟩) := dif_pos h

theorem pop_error {s : State} (h : s.sp.val = 0) : pop s = .error .stackUnderflow := dif_neg (by omega)

theorem readKey_cases (s : State) :
    (s.key = .none ∧ readKey s = .ok none) ∨ (∃ k, s.key = .key k ∧ readKey s = .ok (some k)) ∨
    (s.key = .invalid ∧ readKey s = .error .invalidKey) := by
  unfold readKey
  cases s.key with
  | none => simp
  | key k => simp
  | invalid => simp

/-! ### Result and flag -/

theorem writeResultAndFlag_eq (s : State) (x : RegIx) (result flag : Byte) :
    writeResultAndFlag s x result flag = (s.setV x result).setV vf flag := rfl

/-- `VF` holds the flag, whichever register the result went to. -/
theorem getV_vf_writeResultAndFlag (s : State) (x : RegIx) (result flag : Byte) :
    (writeResultAndFlag s x result flag).getV vf = flag := by
  rw [writeResultAndFlag_eq, State.getV_setV_same]

/-- `V[x]` holds the result, unless it is `VF`. -/
theorem getV_result_writeResultAndFlag (s : State) {x : RegIx} (result flag : Byte) (h : x ≠ vf) :
    (writeResultAndFlag s x result flag).getV x = result := by
  rw [writeResultAndFlag_eq, State.getV_setV_other _ flag h, State.getV_setV_same]

theorem shiftOperand_eq (s : State) (x y : RegIx) : shiftOperand s x y = s.getV x := rfl

theorem sumOf_toNat (a b : Byte) : (sumOf a b).toNat = (a.toNat + b.toNat) % 256 := by simp [sumOf]

theorem differenceOf_toNat (a b : Byte) : (differenceOf a b).toNat = (a.toNat + 256 - b.toNat) % 256 := by
  have ha := a.isLt
  have hb := b.isLt
  unfold differenceOf
  split
  all_goals simp
  all_goals omega

theorem flagOf_cases (b : Bool) : flagOf b = 0 ∨ flagOf b = 1 := by cases b <;> simp [flagOf]

/-! ### Block transfers -/

/-- `INDEX_AFTER_BLOCK` is "unchanged", so nothing more happens after the transfer. -/
@[simp] theorem afterBlock_eq (x : RegIx) (r : StepResult) : afterBlock x r = r := by
  cases r <;> simp [afterBlock, indexAfterBlock]

/-- A run of writes that fits completes, and changes memory alone. -/
theorem storeBytes_next (bs : List Byte) (a : Nat) (s : State) (h : bs = [] ∨ a + bs.length ≤ Config.memSize) :
    ∃ m, storeBytes a bs s = .next (s.setMem m) := by
  induction bs generalizing a s with
  | nil => exact ⟨s.mem, rfl⟩
  | cons b bs ih =>
    have hl : a + (bs.length + 1) ≤ Config.memSize := by simpa using h
    obtain ⟨m, hm⟩ := ih (a + 1) (s.setMem (s.mem.put a b)) (.inr (by omega))
    exact ⟨m, by simp [storeBytes, memWrite_ok b (show a < Config.memSize by omega), hm]⟩

/-- A run of writes only ever changes memory, keeps its canonical form, and leaves every byte outside its range alone;
whether it completes or raises, and it raises nothing but `AddressOutOfBounds`. -/
theorem storeBytes_cases (bs : List Byte) (a : Nat) (s : State) :
    ∃ m, (storeBytes a bs s = .next (s.setMem m) ∨
        ∃ a', Config.memSize ≤ a' ∧ storeBytes a bs s = .fault (.stepError (.addressOutOfBounds a') (s.setMem m))) ∧
      (s.mem.wf → m.wf) ∧ ∀ a', (a' < a ∨ a + bs.length ≤ a') → m.byteAt a' = s.mem.byteAt a' := by
  induction bs generalizing a s with
  | nil => exact ⟨s.mem, .inl rfl, id, fun _ _ => rfl⟩
  | cons b bs ih =>
    rcases Nat.lt_or_ge a Config.memSize with ha | ha
    · obtain ⟨m, hm, hwf, hout⟩ := ih (a + 1) (s.setMem (s.mem.put a b))
      refine ⟨m, by simpa [storeBytes, memWrite_ok b ha] using hm, fun h => hwf (Memory.put_wf _ _ _ h ha), ?_⟩
      intro a' h'
      have h'' : a' < a + 1 ∨ a + 1 + bs.length ≤ a' := by simp only [List.length_cons] at h'; omega
      rw [hout a' h'']
      exact Memory.byteAt_put_other s.mem b (by simp only [List.length_cons] at h'; omega)
    · exact ⟨s.mem, .inr ⟨a, ha, by simp [storeBytes, memWrite_error b ha]⟩, id, fun _ _ => rfl⟩

/-- A run of writes that completes has put each byte at its address. -/
theorem storeBytes_byteAt (bs : List Byte) (a : Nat) (s t : State) (hwf : s.mem.wf) (h : storeBytes a bs s = .next t)
    (k : Nat) (hk : k < bs.length) : t.mem.byteAt (a + k) = bs[k] := by
  induction bs generalizing a s k with
  | nil => simp at hk
  | cons b bs ih =>
    obtain ⟨s', hs', h⟩ := orRaise_next h
    rcases Nat.lt_or_ge a Config.memSize with ha | ha
    · rw [memWrite_ok b ha] at hs'
      obtain rfl : s.setMem (s.mem.put a b) = s' := by simpa using hs'
      cases k with
      | zero =>
        obtain ⟨m, hm, -, hout⟩ := storeBytes_cases bs (a + 1) (s.setMem (s.mem.put a b))
        rcases hm with hm | ⟨_, _, hm⟩ <;> rw [h] at hm
        · obtain rfl : t = (s.setMem (s.mem.put a b)).setMem m := by simpa using hm
          simpa [hout a (.inl (by omega))] using Memory.byteAt_put_same s.mem a b hwf.1
        · simp at hm
      | succ k =>
        have := ih (a + 1) _ (Memory.put_wf _ _ b hwf ha) h k (by simpa using hk)
        simpa [Nat.add_assoc, Nat.add_comm 1 k] using this
    · simp [memWrite_error b ha] at hs'

/-- A run of writes that does not fit raises at its first address past the end, with the bytes before it written. -/
theorem storeBytes_fault (bs : List Byte) (a : Nat) (s : State) (h : Config.memSize < a + bs.length) (hne : bs ≠ []) :
    ∃ t, storeBytes a (bs.take (Config.memSize - a)) s = .next t ∧
      storeBytes a bs s = .fault (.stepError (.addressOutOfBounds (max a Config.memSize)) t) := by
  induction bs generalizing a s with
  | nil => exact absurd rfl hne
  | cons b bs ih =>
    rcases Nat.lt_or_ge a Config.memSize with ha | ha
    · have hbs : bs ≠ [] := by rintro rfl; simp at h; omega
      obtain ⟨t, ht, hf⟩ := ih (a + 1) (s.setMem (s.mem.put a b)) (by simp at h; omega) hbs
      obtain ⟨j, hj⟩ : ∃ j, Config.memSize - a = j + 1 := ⟨Config.memSize - a - 1, by omega⟩
      have hj' : Config.memSize - (a + 1) = j := by omega
      refine ⟨t, ?_, ?_⟩
      · rw [hj, List.take_succ_cons]
        simp [storeBytes, memWrite_ok b ha, ← hj', ht]
      · have hmax : max (a + 1) Config.memSize = max a Config.memSize := by omega
        simpa [storeBytes, memWrite_ok b ha, hmax] using hf
    · refine ⟨s, by simp [Nat.sub_eq_zero_of_le ha, storeBytes], ?_⟩
      simp [storeBytes, memWrite_error b ha, Nat.max_eq_left ha]

/-- Reads that fit answer the bytes, in order. -/
theorem readBytes_ok (n a : Nat) (s : State) (h : n = 0 ∨ a + n ≤ Config.memSize) :
    readBytes s a n = .ok ((List.range n).map fun k => s.mem.byteAt (a + k)) := by
  induction n generalizing a with
  | zero => rfl
  | succ n ih =>
    have ha : a < Config.memSize := by omega
    rw [readBytes, memRead_ok ha, ih (a + 1) (.inr (by omega)), List.range_succ_eq_map]
    simp [Function.comp_def, Nat.add_assoc, Nat.add_comm 1]

/-- Reads that do not fit answer the first address past the end. -/
theorem readBytes_error (n a : Nat) (s : State) (h : Config.memSize < a + n) (hn : 0 < n) :
    readBytes s a n = .error (.addressOutOfBounds (max a Config.memSize)) := by
  induction n generalizing a with
  | zero => omega
  | succ n ih =>
    rcases Nat.lt_or_ge a Config.memSize with ha | ha
    · have hmax : max (a + 1) Config.memSize = max a Config.memSize := by omega
      rw [readBytes, memRead_ok ha, ih (a + 1) (by omega) (by omega), hmax]
    · rw [readBytes, memRead_error ha, Nat.max_eq_left ha]

/-- A run of register loads changes registers alone. -/
theorem loadRegs_cases (n a k : Nat) (s : State) :
    ∃ v, (loadRegs a k n s = .next { s with v := v } ∨
        ∃ a', Config.memSize ≤ a' ∧ loadRegs a k n s = .fault (.stepError (.addressOutOfBounds a') { s with v := v })) := by
  induction n generalizing a k s with
  | zero => exact ⟨s.v, .inl rfl⟩
  | succ n ih =>
    rcases Nat.lt_or_ge a Config.memSize with ha | ha
    · obtain ⟨v, hv⟩ := ih (a + 1) (k + 1) (s.setV (BitVec.ofNat 4 k) (s.mem.byteAt a))
      exact ⟨v, by simpa [loadRegs, memRead_ok ha] using hv⟩
    · exact ⟨s.v, .inr ⟨a, ha, by simp [loadRegs, memRead_error ha]⟩⟩

/-- A run of register loads that fits completes: each of its registers holds its byte, every other one what it held. -/
theorem loadRegs_next (n a k : Nat) (s : State) (hk : k + n ≤ 16) (h : n = 0 ∨ a + n ≤ Config.memSize) :
    ∃ v : Vector Byte 16, loadRegs a k n s = .next { s with v := v } ∧
      ∀ j : RegIx, v[j.toNat] =
        if k ≤ j.toNat ∧ j.toNat < k + n then s.mem.byteAt (a + (j.toNat - k)) else s.v[j.toNat] := by
  induction n generalizing a k s with
  | zero => exact ⟨s.v, rfl, fun j => by rw [if_neg (by omega)]⟩
  | succ n ih =>
    have ha : a < Config.memSize := by omega
    have hkk : k % 16 = k := by omega
    obtain ⟨v, hv, hj⟩ := ih (a + 1) (k + 1) (s.setV (BitVec.ofNat 4 k) (s.mem.byteAt a)) (by omega) (by omega)
    refine ⟨v, by simpa [loadRegs, memRead_ok ha] using hv, fun j => ?_⟩
    rw [hj j]
    by_cases hjk : j.toNat = k
    · rw [if_neg (by omega), if_pos (by omega)]
      simp [hkk, hjk]
    · by_cases hc : k + 1 ≤ j.toNat ∧ j.toNat < k + 1 + n
      · have he : a + 1 + (j.toNat - (k + 1)) = a + (j.toNat - k) := by omega
        rw [if_pos hc, if_pos (by omega)]
        simp [he]
      · rw [if_neg hc, if_neg (by omega)]
        simp [hkk, Ne.symm hjk]

/-- A run of register loads that does not fit raises at the first address past the end, with what fitted loaded. -/
theorem loadRegs_fault (n a k : Nat) (s : State) (hk : k + n ≤ 16) (h : Config.memSize < a + n) (hn : 0 < n) :
    ∃ t, loadRegs a k (Config.memSize - a) s = .next t ∧
      loadRegs a k n s = .fault (.stepError (.addressOutOfBounds (max a Config.memSize)) t) := by
  induction n generalizing a k s with
  | zero => omega
  | succ n ih =>
    rcases Nat.lt_or_ge a Config.memSize with ha | ha
    · obtain ⟨t, h1, h2⟩ := ih (a + 1) (k + 1) (s.setV (BitVec.ofNat 4 k) (s.mem.byteAt a)) (by omega) (by omega) (by omega)
      obtain ⟨j, hj⟩ : ∃ j, Config.memSize - a = j + 1 := ⟨Config.memSize - a - 1, by omega⟩
      have hmax : max (a + 1) Config.memSize = max a Config.memSize := by omega
      refine ⟨t, ?_, by simpa [loadRegs, memRead_ok ha, hmax] using h2⟩
      rw [hj]
      simpa [loadRegs, memRead_ok ha, show Config.memSize - (a + 1) = j by omega] using h1
    · refine ⟨s, by simp [Nat.sub_eq_zero_of_le ha, loadRegs], ?_⟩
      simp [loadRegs, memRead_error ha, Nat.max_eq_left ha]

@[simp] theorem regsUpTo_length (s : State) (x : RegIx) : (regsUpTo s x).length = x.toNat + 1 := by simp [regsUpTo]

theorem regsUpTo_getElem (s : State) {x k : RegIx} (hk : k.toNat ≤ x.toNat) :
    (regsUpTo s x)[k.toNat]'(by rw [regsUpTo_length]; omega) = s.getV k := by simp [regsUpTo]

/-! ### Fetch -/

theorem fetch_ok {s : State} (h : s.pc.toNat + 1 < Config.memSize) :
    fetch s = .ok (s.mem.byteAt s.pc.toNat, s.mem.byteAt (s.pc.toNat + 1)) := by
  have h' : s.pc.toNat < Config.memSize := by omega
  simp [fetch, memRead_ok h, memRead_ok h']

/-- The fetch fails exactly when two bytes are not there, at the first one that is not. -/
theorem fetch_error {s : State} (h : Config.memSize ≤ s.pc.toNat + 1) :
    fetch s = .error (.addressOutOfBounds (max s.pc.toNat Config.memSize)) := by
  rcases Nat.lt_or_ge s.pc.toNat Config.memSize with h' | h'
  · have hm : max s.pc.toNat Config.memSize = s.pc.toNat + 1 := by omega
    simp [fetch, memRead_ok h', memRead_error h, hm]
  · have hm : max s.pc.toNat Config.memSize = s.pc.toNat := by omega
    simp [fetch, memRead_error h', hm]

@[simp] theorem errorOfOpcode_invalidOpcode (w : Word) : errorOfOpcode (.invalidOpcode w) = .invalidOpcode w := rfl

@[simp] theorem advance_mem (s : State) : (advance s).mem = s.mem := rfl
@[simp] theorem advance_pc (s : State) : (advance s).pc = s.pc + 2 := rfl
@[simp] theorem advance_stack (s : State) : (advance s).stack = s.stack := rfl
@[simp] theorem advance_sp (s : State) : (advance s).sp = s.sp := rfl
@[simp] theorem advance_i (s : State) : (advance s).i = s.i := rfl
@[simp] theorem advance_getV (s : State) (k : RegIx) : (advance s).getV k = s.getV k := rfl

end Sys2Proof.Machine
end

