-- ==== Sys2Proof/Laws/Frame.lean ====
section
/-! SUPPORT. Frames: each update of State changes only its own item, and frames compose. -/

namespace Sys2Proof.Machine

variable {ws : List Item} {s : State}

theorem SameBut.refl (ws : List Item) (s : State) : SameBut ws s s := by
  intro it _
  cases it <;> simp [Item.agrees]

theorem SameBut.trans {t u : State} (h : SameBut ws s t) (h' : SameBut ws t u) : SameBut ws s u := by
  intro it hit
  have h₁ := h it hit
  have h₂ := h' it hit
  cases it <;> simp_all [Item.agrees]

theorem SameBut.mono {ws' : List Item} {t : State} (h : SameBut ws s t) (hsub : ∀ it ∈ ws, it ∈ ws') :
    SameBut ws' s t := fun it hit => h it fun hmem => hit (hsub it hmem)

theorem sameBut_setV (k : RegIx) (b : Byte) (h : .reg k ∈ ws) : SameBut ws s (s.setV k b) := by
  intro it hit
  cases it with
  | reg j =>
    have hj : j ≠ k := by rintro rfl; exact hit h
    simp [Item.agrees, hj]
  | _ => simp [Item.agrees, memRead]

theorem sameBut_setI (w : Word) (h : .index ∈ ws) : SameBut ws s (s.setI w) := by
  intro it hit
  cases it with
  | index => exact absurd h hit
  | _ => simp [Item.agrees, memRead]

theorem sameBut_setPc (w : Word) (h : .pc ∈ ws) : SameBut ws s (s.setPc w) := by
  intro it hit
  cases it with
  | pc => exact absurd h hit
  | _ => simp [Item.agrees, memRead]

theorem sameBut_setStack (es : Vector Word 16) (n : Fin 17) (h : .stack ∈ ws) : SameBut ws s (s.setStack es n) := by
  intro it hit
  cases it with
  | stack => exact absurd h hit
  | _ => simp [Item.agrees, memRead]

theorem sameBut_setDt (b : Byte) (h : .delay ∈ ws) : SameBut ws s (s.setDt b) := by
  intro it hit
  cases it with
  | delay => exact absurd h hit
  | _ => simp [Item.agrees, memRead]

theorem sameBut_setSt (b : Byte) (h : .sound ∈ ws) : SameBut ws s (s.setSt b) := by
  intro it hit
  cases it with
  | sound => exact absurd h hit
  | _ => simp [Item.agrees, memRead]

theorem sameBut_setKey (l : Latch) (h : .latch ∈ ws) : SameBut ws s (s.setKey l) := by
  intro it hit
  cases it with
  | latch => exact absurd h hit
  | _ => simp [Item.agrees, memRead]

theorem sameBut_setFb (f : Frame) (h : .frame ∈ ws) : SameBut ws s (s.setFb f) := by
  intro it hit
  cases it with
  | frame => exact absurd h hit
  | _ => simp [Item.agrees, memRead]

theorem sameBut_setDraws (n : Nat) (h : .draws ∈ ws) : SameBut ws s (s.setDraws n) := by
  intro it hit
  cases it with
  | draws => exact absurd h hit
  | _ => simp [Item.agrees, memRead]

theorem sameBut_setSchedule (ts : List Transaction) (h : .schedule ∈ ws) : SameBut ws s (s.setSchedule ts) := by
  intro it hit
  cases it with
  | schedule => exact absurd h hit
  | _ => simp [Item.agrees, memRead]

theorem sameBut_setMem (m : Memory) (h : ∀ a, .byte a ∉ ws → m.byteAt a = s.mem.byteAt a) :
    SameBut ws s (s.setMem m) := by
  intro it hit
  cases it with
  | byte a => simp [Item.agrees, memRead, h a hit]
  | _ => simp [Item.agrees]

/-- A frame of registers alone. -/
theorem sameBut_regs (v : Vector Byte 16) (h : ∀ k : RegIx, .reg k ∉ ws → v[k.toNat] = s.v[k.toNat]) :
    SameBut ws s { s with v := v } := by
  intro it hit
  cases it with
  | reg k => exact h k hit
  | _ => simp [Item.agrees, memRead]

/-- A result and its flag change the destination and `VF` alone. -/
theorem sameBut_writeResultAndFlag (x : RegIx) (result flag : Byte) (hx : .reg x ∈ ws) (hf : .reg vf ∈ ws) :
    SameBut ws s (writeResultAndFlag s x result flag) :=
  (sameBut_setV x result hx).trans (sameBut_setV vf flag hf)

/-- A skip changes `PC` alone, whether or not it is taken. -/
theorem sameBut_skipIf (c : Bool) (h : .pc ∈ ws) : SameBut ws s (skipIf c s) := by
  cases c
  · exact SameBut.refl ws s
  · exact sameBut_setPc _ h

@[simp] theorem mem_bytesFrom (a a' n : Nat) : (.byte a' ∈ bytesFrom a n) ↔ a ≤ a' ∧ a' < a + n := by
  simp only [bytesFrom, List.mem_map, List.mem_range, Item.byte.injEq]
  constructor
  · rintro ⟨k, hk, rfl⟩
    omega
  · rintro ⟨h, h'⟩
    exact ⟨a' - a, by omega, by omega⟩

theorem mem_regsBelow (k : RegIx) (n : Nat) (hn : n ≤ 16) : (.reg k ∈ regsBelow n) ↔ k.toNat < n := by
  simp only [regsBelow, List.mem_map, List.mem_range, Item.reg.injEq]
  constructor
  · rintro ⟨j, hj, rfl⟩
    simp only [BitVec.toNat_ofNat]
    omega
  · intro h
    exact ⟨k.toNat, h, by simp⟩

/-- A run of writes that completes changes no byte outside its range and no other item. -/
theorem sameBut_storeBytes_next {bs : List Byte} {a : Nat} {t : State} (h : storeBytes a bs s = .next t) :
    SameBut (bytesFrom a bs.length) s t := by
  obtain ⟨m, hm | ⟨_, _, hm⟩, -, hout⟩ := storeBytes_cases bs a s <;> rw [h] at hm
  · obtain rfl : t = s.setMem m := by simpa using hm
    exact sameBut_setMem _ fun a' ha' => hout a' (by rw [mem_bytesFrom] at ha'; omega)
  · simp at hm

/-- A run of writes that raises has changed no byte outside its range and no other item. -/
theorem sameBut_storeBytes_fault {bs : List Byte} {a : Nat} {t : State} {e : Error}
    (h : storeBytes a bs s = .fault (.stepError e t)) : SameBut (bytesFrom a bs.length) s t := by
  obtain ⟨m, hm | ⟨_, _, hm⟩, -, hout⟩ := storeBytes_cases bs a s <;> rw [h] at hm
  · simp at hm
  · obtain ⟨-, rfl⟩ : _ ∧ t = s.setMem m := by simpa using hm
    exact sameBut_setMem _ fun a' ha' => hout a' (by rw [mem_bytesFrom] at ha'; omega)

end Sys2Proof.Machine
end

