-- ==== Sys2Proof/Laws/PerInstr.lean ====
section
/-! SUPPORT. What holds of every instruction as syntax, one lemma per constructor: its operands fit their fields, and its
encoding matches its own row of the opcode map. -/

namespace Sys2Proof.Laws

/-- The written form of an instruction is well formed (R93, R94, R102). -/
def OperandsFit.Statement (i : Instr) : Prop := i.wf = true

/-- The encoding of an instruction has the match bits of its row under the row's mask (R96, R101). -/
def EncodeMatchesRow.Statement (i : Instr) : Prop := encode i &&& i.mnemonic.maskBits = i.mnemonic.matchBits

/-! ### The check of each format on operands of their exact widths -/

theorem accepts_a {m : Mnemonic} (h : m.format = .a) (nnn : Addr12) : m.accepts [nnn.toNat] = true := by
  simp [Mnemonic.accepts, h, Format.operands, OperandField.bound]
  exact decide_eq_true nnn.isLt

theorem accepts_xi {m : Mnemonic} (h : m.format = .xi) (x : RegIx) (nn : Byte) : m.accepts [x.toNat, nn.toNat] = true := by
  simp [Mnemonic.accepts, h, Format.operands, OperandField.bound]
  exact ⟨decide_eq_true x.isLt, decide_eq_true nn.isLt⟩

theorem accepts_xy {m : Mnemonic} (h : m.format = .xy) (x y : RegIx) : m.accepts [x.toNat, y.toNat] = true := by
  simp [Mnemonic.accepts, h, Format.operands, OperandField.bound]
  exact ⟨decide_eq_true x.isLt, decide_eq_true y.isLt⟩

theorem accepts_xyn {m : Mnemonic} (h : m.format = .xyn) (x y : RegIx) (n : Nibble) :
    m.accepts [x.toNat, y.toNat, n.toNat] = true := by
  simp [Mnemonic.accepts, h, Format.operands, OperandField.bound]
  exact ⟨decide_eq_true x.isLt, decide_eq_true y.isLt, decide_eq_true n.isLt⟩

theorem accepts_xs {m : Mnemonic} (h : m.format = .xs) (x : RegIx) : m.accepts [x.toNat] = true := by
  simp [Mnemonic.accepts, h, Format.operands, OperandField.bound]
  exact decide_eq_true x.isLt

/-! ### OperandsFit -/

theorem OperandsFit.clearScreen : OperandsFit.Statement (.clearScreen) := rfl
theorem OperandsFit.ret : OperandsFit.Statement (.ret) := rfl
theorem OperandsFit.jump (nnn : Addr12) : OperandsFit.Statement (.jump nnn) := accepts_a rfl nnn
theorem OperandsFit.call (nnn : Addr12) : OperandsFit.Statement (.call nnn) := accepts_a rfl nnn
theorem OperandsFit.skipEqImm (x : RegIx) (nn : Byte) : OperandsFit.Statement (.skipEqImm x nn) := accepts_xi rfl x nn
theorem OperandsFit.skipNeImm (x : RegIx) (nn : Byte) : OperandsFit.Statement (.skipNeImm x nn) := accepts_xi rfl x nn
theorem OperandsFit.skipEqReg (x y : RegIx) : OperandsFit.Statement (.skipEqReg x y) := accepts_xy rfl x y
theorem OperandsFit.loadImm (x : RegIx) (nn : Byte) : OperandsFit.Statement (.loadImm x nn) := accepts_xi rfl x nn
theorem OperandsFit.addImm (x : RegIx) (nn : Byte) : OperandsFit.Statement (.addImm x nn) := accepts_xi rfl x nn
theorem OperandsFit.move (x y : RegIx) : OperandsFit.Statement (.move x y) := accepts_xy rfl x y
theorem OperandsFit.or (x y : RegIx) : OperandsFit.Statement (.or x y) := accepts_xy rfl x y
theorem OperandsFit.and (x y : RegIx) : OperandsFit.Statement (.and x y) := accepts_xy rfl x y
theorem OperandsFit.xor (x y : RegIx) : OperandsFit.Statement (.xor x y) := accepts_xy rfl x y
theorem OperandsFit.addReg (x y : RegIx) : OperandsFit.Statement (.addReg x y) := accepts_xy rfl x y
theorem OperandsFit.sub (x y : RegIx) : OperandsFit.Statement (.sub x y) := accepts_xy rfl x y
theorem OperandsFit.shiftRight (x y : RegIx) : OperandsFit.Statement (.shiftRight x y) := accepts_xy rfl x y
theorem OperandsFit.subN (x y : RegIx) : OperandsFit.Statement (.subN x y) := accepts_xy rfl x y
theorem OperandsFit.shiftLeft (x y : RegIx) : OperandsFit.Statement (.shiftLeft x y) := accepts_xy rfl x y
theorem OperandsFit.skipNeReg (x y : RegIx) : OperandsFit.Statement (.skipNeReg x y) := accepts_xy rfl x y
theorem OperandsFit.loadIndex (nnn : Addr12) : OperandsFit.Statement (.loadIndex nnn) := accepts_a rfl nnn
theorem OperandsFit.jumpOffset (nnn : Addr12) : OperandsFit.Statement (.jumpOffset nnn) := accepts_a rfl nnn
theorem OperandsFit.random (x : RegIx) (nn : Byte) : OperandsFit.Statement (.random x nn) := accepts_xi rfl x nn
theorem OperandsFit.draw (x y : RegIx) (n : Nibble) : OperandsFit.Statement (.draw x y n) := accepts_xyn rfl x y n
theorem OperandsFit.skipKeyPressed (x : RegIx) : OperandsFit.Statement (.skipKeyPressed x) := accepts_xs rfl x
theorem OperandsFit.skipKeyNotPressed (x : RegIx) : OperandsFit.Statement (.skipKeyNotPressed x) := accepts_xs rfl x
theorem OperandsFit.getDelay (x : RegIx) : OperandsFit.Statement (.getDelay x) := accepts_xs rfl x
theorem OperandsFit.waitForKey (x : RegIx) : OperandsFit.Statement (.waitForKey x) := accepts_xs rfl x
theorem OperandsFit.setDelay (x : RegIx) : OperandsFit.Statement (.setDelay x) := accepts_xs rfl x
theorem OperandsFit.setSound (x : RegIx) : OperandsFit.Statement (.setSound x) := accepts_xs rfl x
theorem OperandsFit.addIndex (x : RegIx) : OperandsFit.Statement (.addIndex x) := accepts_xs rfl x
theorem OperandsFit.loadFont (x : RegIx) : OperandsFit.Statement (.loadFont x) := accepts_xs rfl x
theorem OperandsFit.storeBCD (x : RegIx) : OperandsFit.Statement (.storeBCD x) := accepts_xs rfl x
theorem OperandsFit.regDump (x : RegIx) : OperandsFit.Statement (.regDump x) := accepts_xs rfl x
theorem OperandsFit.regLoad (x : RegIx) : OperandsFit.Statement (.regLoad x) := accepts_xs rfl x

/-! ### EncodeMatchesRow -/

theorem EncodeMatchesRow.clearScreen : EncodeMatchesRow.Statement (.clearScreen) := rfl
theorem EncodeMatchesRow.ret : EncodeMatchesRow.Statement (.ret) := rfl
theorem EncodeMatchesRow.jump (nnn : Addr12) : EncodeMatchesRow.Statement (.jump nnn) :=
  (and_formatA _ nnn).trans (matchBits_within_maskBits _)
theorem EncodeMatchesRow.call (nnn : Addr12) : EncodeMatchesRow.Statement (.call nnn) :=
  (and_formatA _ nnn).trans (matchBits_within_maskBits _)
theorem EncodeMatchesRow.skipEqImm (x : RegIx) (nn : Byte) : EncodeMatchesRow.Statement (.skipEqImm x nn) :=
  (and_formatXI _ x nn).trans (matchBits_within_maskBits _)
theorem EncodeMatchesRow.skipNeImm (x : RegIx) (nn : Byte) : EncodeMatchesRow.Statement (.skipNeImm x nn) :=
  (and_formatXI _ x nn).trans (matchBits_within_maskBits _)
theorem EncodeMatchesRow.skipEqReg (x y : RegIx) : EncodeMatchesRow.Statement (.skipEqReg x y) :=
  (and_formatXY _ x y).trans (matchBits_within_maskBits _)
theorem EncodeMatchesRow.loadImm (x : RegIx) (nn : Byte) : EncodeMatchesRow.Statement (.loadImm x nn) :=
  (and_formatXI _ x nn).trans (matchBits_within_maskBits _)
theorem EncodeMatchesRow.addImm (x : RegIx) (nn : Byte) : EncodeMatchesRow.Statement (.addImm x nn) :=
  (and_formatXI _ x nn).trans (matchBits_within_maskBits _)
theorem EncodeMatchesRow.move (x y : RegIx) : EncodeMatchesRow.Statement (.move x y) :=
  (and_formatXY _ x y).trans (matchBits_within_maskBits _)
theorem EncodeMatchesRow.or (x y : RegIx) : EncodeMatchesRow.Statement (.or x y) :=
  (and_formatXY _ x y).trans (matchBits_within_maskBits _)
theorem EncodeMatchesRow.and (x y : RegIx) : EncodeMatchesRow.Statement (.and x y) :=
  (and_formatXY _ x y).trans (matchBits_within_maskBits _)
theorem EncodeMatchesRow.xor (x y : RegIx) : EncodeMatchesRow.Statement (.xor x y) :=
  (and_formatXY _ x y).trans (matchBits_within_maskBits _)
theorem EncodeMatchesRow.addReg (x y : RegIx) : EncodeMatchesRow.Statement (.addReg x y) :=
  (and_formatXY _ x y).trans (matchBits_within_maskBits _)
theorem EncodeMatchesRow.sub (x y : RegIx) : EncodeMatchesRow.Statement (.sub x y) :=
  (and_formatXY _ x y).trans (matchBits_within_maskBits _)
theorem EncodeMatchesRow.shiftRight (x y : RegIx) : EncodeMatchesRow.Statement (.shiftRight x y) :=
  (and_formatXY _ x y).trans (matchBits_within_maskBits _)
theorem EncodeMatchesRow.subN (x y : RegIx) : EncodeMatchesRow.Statement (.subN x y) :=
  (and_formatXY _ x y).trans (matchBits_within_maskBits _)
theorem EncodeMatchesRow.shiftLeft (x y : RegIx) : EncodeMatchesRow.Statement (.shiftLeft x y) :=
  (and_formatXY _ x y).trans (matchBits_within_maskBits _)
theorem EncodeMatchesRow.skipNeReg (x y : RegIx) : EncodeMatchesRow.Statement (.skipNeReg x y) :=
  (and_formatXY _ x y).trans (matchBits_within_maskBits _)
theorem EncodeMatchesRow.loadIndex (nnn : Addr12) : EncodeMatchesRow.Statement (.loadIndex nnn) :=
  (and_formatA _ nnn).trans (matchBits_within_maskBits _)
theorem EncodeMatchesRow.jumpOffset (nnn : Addr12) : EncodeMatchesRow.Statement (.jumpOffset nnn) :=
  (and_formatA _ nnn).trans (matchBits_within_maskBits _)
theorem EncodeMatchesRow.random (x : RegIx) (nn : Byte) : EncodeMatchesRow.Statement (.random x nn) :=
  (and_formatXI _ x nn).trans (matchBits_within_maskBits _)
theorem EncodeMatchesRow.draw (x y : RegIx) (n : Nibble) : EncodeMatchesRow.Statement (.draw x y n) :=
  (and_formatXYN _ x y n).trans (matchBits_within_maskBits _)
theorem EncodeMatchesRow.skipKeyPressed (x : RegIx) : EncodeMatchesRow.Statement (.skipKeyPressed x) :=
  (and_formatXS _ x).trans (matchBits_within_maskBits _)
theorem EncodeMatchesRow.skipKeyNotPressed (x : RegIx) : EncodeMatchesRow.Statement (.skipKeyNotPressed x) :=
  (and_formatXS _ x).trans (matchBits_within_maskBits _)
theorem EncodeMatchesRow.getDelay (x : RegIx) : EncodeMatchesRow.Statement (.getDelay x) :=
  (and_formatXS _ x).trans (matchBits_within_maskBits _)
theorem EncodeMatchesRow.waitForKey (x : RegIx) : EncodeMatchesRow.Statement (.waitForKey x) :=
  (and_formatXS _ x).trans (matchBits_within_maskBits _)
theorem EncodeMatchesRow.setDelay (x : RegIx) : EncodeMatchesRow.Statement (.setDelay x) :=
  (and_formatXS _ x).trans (matchBits_within_maskBits _)
theorem EncodeMatchesRow.setSound (x : RegIx) : EncodeMatchesRow.Statement (.setSound x) :=
  (and_formatXS _ x).trans (matchBits_within_maskBits _)
theorem EncodeMatchesRow.addIndex (x : RegIx) : EncodeMatchesRow.Statement (.addIndex x) :=
  (and_formatXS _ x).trans (matchBits_within_maskBits _)
theorem EncodeMatchesRow.loadFont (x : RegIx) : EncodeMatchesRow.Statement (.loadFont x) :=
  (and_formatXS _ x).trans (matchBits_within_maskBits _)
theorem EncodeMatchesRow.storeBCD (x : RegIx) : EncodeMatchesRow.Statement (.storeBCD x) :=
  (and_formatXS _ x).trans (matchBits_within_maskBits _)
theorem EncodeMatchesRow.regDump (x : RegIx) : EncodeMatchesRow.Statement (.regDump x) :=
  (and_formatXS _ x).trans (matchBits_within_maskBits _)
theorem EncodeMatchesRow.regLoad (x : RegIx) : EncodeMatchesRow.Statement (.regLoad x) :=
  (and_formatXS _ x).trans (matchBits_within_maskBits _)

end Sys2Proof.Laws
end

