-- ==== Sys2Proof/Tests/Slice0.lean ====
section
/-! SUPPORT. The model's own tests. Expected values come from `95_test_vectors.md` (each test names its vector) or from the
rule named. After them, a witness for every statement of Obligations.lean that has hypotheses. -/

namespace Sys2Proof.Tests

open Sys2Proof.Machine

/-! ## WellFormed: each check has an ill-formed term that it refuses (R93, R94) -/

theorem test_wf_too_few_operands : Mnemonic.addReg.accepts [1] = false := by decide
theorem test_wf_too_many_operands : Mnemonic.clearScreen.accepts [0] = false := by decide
theorem test_wf_register_x_16 : Mnemonic.setDelay.accepts [16] = false := by decide
theorem test_wf_register_y_16 : Mnemonic.move.accepts [0, 16] = false := by decide
theorem test_wf_height_16 : Mnemonic.draw.accepts [0, 0, 16] = false := by decide
theorem test_wf_immediate_256 : Mnemonic.loadImm.accepts [0, 256] = false := by decide
theorem test_wf_address_4096 : Mnemonic.jump.accepts [4096] = false := by decide
theorem test_wf_largest_operands :
    (Mnemonic.draw.accepts [15, 15, 15] && Mnemonic.loadImm.accepts [15, 255] && Mnemonic.jump.accepts [4095]) = true := by
  decide

/-! ## Decoding: a word of every constructor, written out from the opcode map (R96, vectors T-E and S8) -/

theorem test_decode_z : decode 0x00 0xE0 = .ok .clearScreen ∧ decode 0x00 0xEE = .ok .ret := by decide
theorem test_decode_a : decode 0x12 0x34 = .ok (.jump 0x234) ∧ decode 0x22 0x0A = .ok (.call 0x20A) ∧
    decode 0xA3 0x00 = .ok (.loadIndex 0x300) ∧ decode 0xBF 0xFF = .ok (.jumpOffset 0xFFF) := by decide
theorem test_decode_xi : decode 0x3C 0x7F = .ok (.skipEqImm 12 0x7F) ∧ decode 0x41 0x05 = .ok (.skipNeImm 1 0x05) ∧
    decode 0x63 0xA5 = .ok (.loadImm 3 0xA5) ∧ decode 0x71 0x05 = .ok (.addImm 1 0x05) ∧
    decode 0xC3 0x0F = .ok (.random 3 0x0F) := by decide
theorem test_decode_xy : decode 0x51 0x20 = .ok (.skipEqReg 1 2) ∧ decode 0x9A 0xB0 = .ok (.skipNeReg 10 11) ∧
    decode 0x81 0x20 = .ok (.move 1 2) ∧ decode 0x81 0x21 = .ok (.or 1 2) ∧ decode 0x81 0x22 = .ok (.and 1 2) ∧
    decode 0x81 0x23 = .ok (.xor 1 2) ∧ decode 0x8A 0xB4 = .ok (.addReg 10 11) ∧ decode 0x80 0x15 = .ok (.sub 0 1) ∧
    decode 0x82 0x36 = .ok (.shiftRight 2 3) ∧ decode 0x80 0x17 = .ok (.subN 0 1) ∧
    decode 0x82 0x3E = .ok (.shiftLeft 2 3) := by decide
theorem test_decode_xyn : decode 0xD1 0x25 = .ok (.draw 1 2 5) := by decide
theorem test_decode_xs : decode 0xE0 0x9E = .ok (.skipKeyPressed 0) ∧ decode 0xE0 0xA1 = .ok (.skipKeyNotPressed 0) ∧
    decode 0xF3 0x07 = .ok (.getDelay 3) ∧ decode 0xF3 0x0A = .ok (.waitForKey 3) ∧ decode 0xF0 0x15 = .ok (.setDelay 0) ∧
    decode 0xF4 0x18 = .ok (.setSound 4) ∧ decode 0xF2 0x1E = .ok (.addIndex 2) ∧ decode 0xF0 0x29 = .ok (.loadFont 0) ∧
    decode 0xF1 0x33 = .ok (.storeBCD 1) ∧ decode 0xF2 0x55 = .ok (.regDump 2) ∧ decode 0xF2 0x65 = .ok (.regLoad 2) := by
  decide
theorem test_decode_invalid : decode 0x00 0x00 = .error (.invalidOpcode 0x0000) ∧
    decode 0x51 0x21 = .error (.invalidOpcode 0x5121) ∧ decode 0x80 0x08 = .error (.invalidOpcode 0x8008) ∧
    decode 0xE1 0x9F = .error (.invalidOpcode 0xE19F) ∧ decode 0xFA 0xBC = .error (.invalidOpcode 0xFABC) := by decide
theorem test_encode : encode (.jump 0x234) = 0x1234 ∧ encode (.loadImm 3 0xA5) = 0x63A5 ∧ encode (.addReg 0 1) = 0x8014 ∧
    encode (.draw 1 2 5) = 0xD125 ∧ encode (.regLoad 2) = 0xF265 := by decide
theorem test_table_word : decodeTableWord 16 0xD125 = some (.draw 1 2 5) ∧ decodeTableWord 16 0xFABC = none := by decide

/-! ## One step on a small state -/

/-- The reset state with some registers written. -/
def regs (vs : List (RegIx × Byte)) : State := vs.foldl (fun s p => s.setV p.1 p.2) State.reset

/-- A state with bytes put at an address and after it. -/
def bytes (a : Nat) (bs : List Byte) (s : State) : State :=
  s.setMem (bs.zipIdx.foldl (fun m p => m.put (a + p.2) p.1) s.mem)

/-- A state with some packed framebuffer bytes (R28) put on a clear display. -/
def fbb (cells : List (Fin 32 × Fin 8 × Byte)) (s : State) : State :=
  s.setFb (cells.foldl (fun f p => f.set p.1.val (f[p.1.val] ||| (p.2.2.setWidth 64 : BitVec 64) <<< (56 - 8 * p.2.1.val))) clearFrame)

/-- A step of the word `w` placed at `PC` completes, and the next state is the start with the changes `f` and nothing else. -/
def gives (w : Nat) (s : State) (f : State → State) : Bool :=
  match step (s.withFetchWord 16 w) with
  | .next t => decide (t = f (s.withFetchWord 16 w))
  | _ => false

/-- A step of the word `w` placed at `PC` returns the error `e`, and the state left is the start with the changes `f`. -/
def raises (w : Nat) (s : State) (e : Error) (f : State → State) : Bool :=
  match step (s.withFetchWord 16 w) with
  | .fault (.stepError e' t) => decide (e' = e ∧ t = f (s.withFetchWord 16 w))
  | _ => false

/-- T-A-1 -/
theorem test_loadImm : gives 0x63A5 (regs [(3, 0x77)]) (fun t => (t.setV 3 0xA5).setPc 0x202) = true := by decide
/-- T-A-3 -/
theorem test_addImm : gives 0x7105 (regs [(1, 0xFE), (15, 1)]) (fun t => (t.setV 1 0x03).setPc 0x202) = true := by decide
/-- T-A-7 -/
theorem test_move : gives 0x8120 (regs [(1, 0x12), (2, 0x34)]) (fun t => (t.setV 1 0x34).setPc 0x202) = true := by decide
/-- T-A-10 -/
theorem test_or : gives 0x8121 (regs [(1, 0xF0), (2, 0x0F), (15, 1)]) (fun t => (t.setV 1 0xFF).setPc 0x202) = true := by decide
/-- T-A-11 -/
theorem test_and : gives 0x8122 (regs [(1, 0xF3), (2, 0x3C), (15, 1)]) (fun t => (t.setV 1 0x30).setPc 0x202) = true := by decide
/-- T-A-12 -/
theorem test_xor : gives 0x8123 (regs [(1, 0xFF), (2, 0x0F), (15, 1)]) (fun t => (t.setV 1 0xF0).setPc 0x202) = true := by decide
/-- T-A-15 -/
theorem test_addReg_256 :
    gives 0x8014 (regs [(0, 0x80), (1, 0x80)]) (fun t => ((t.setV 0 0).setV 15 1).setPc 0x202) = true := by decide
/-- T-A-17 -/
theorem test_addReg_to_vf : gives 0x8F14 (regs [(15, 0xF0), (1, 0x20)]) (fun t => (t.setV 15 1).setPc 0x202) = true := by decide
/-- S4 -/
theorem test_sub_borrow :
    gives 0x8015 (regs [(0, 0x0F), (1, 0x10), (15, 1)]) (fun t => ((t.setV 0 0xFF).setV 15 0).setPc 0x202) = true := by decide
/-- T-A-22 -/
theorem test_sub_equal :
    gives 0x8015 (regs [(0, 0x33), (1, 0x33)]) (fun t => ((t.setV 0 0).setV 15 1).setPc 0x202) = true := by decide
/-- T-A-29 -/
theorem test_subN_borrow :
    gives 0x8017 (regs [(0, 0x10), (1, 0x0F), (15, 1)]) (fun t => ((t.setV 0 0xFF).setV 15 0).setPc 0x202) = true := by decide
/-- T-A-33 -/
theorem test_subN_from_vf : gives 0x80F7 (regs [(0, 0x01)]) (fun t => (t.setV 0 0xFF).setPc 0x202) = true := by decide
/-- T-A-38 -/
theorem test_shiftRight_not_vy :
    gives 0x8236 (regs [(2, 0x04), (3, 0xFF), (15, 1)]) (fun t => ((t.setV 2 0x02).setV 15 0).setPc 0x202) = true := by decide
/-- T-A-40 -/
theorem test_shiftRight_of_vf : gives 0x8F06 (regs [(15, 0x02)]) (fun t => (t.setV 15 0).setPc 0x202) = true := by decide
/-- T-A-41 -/
theorem test_shiftLeft : gives 0x823E (regs [(2, 0x81)]) (fun t => ((t.setV 2 0x02).setV 15 1).setPc 0x202) = true := by decide
/-- T-A-46 -/
theorem test_shiftLeft_of_vf : gives 0x8F0E (regs [(15, 0x40)]) (fun t => (t.setV 15 0).setPc 0x202) = true := by decide
/-- T-A-47, for whatever byte the draw gives -/
theorem test_random : step (State.reset.withFetchWord 16 0xC30F) =
    .next ((((State.reset.withFetchWord 16 0xC30F).setPc 0x202).setV 3 (Config.rnd 0 &&& 0x0F)).setDraws 1) := by rfl

/-- T-CF-3 -/
theorem test_jump : gives 0x1FFF State.reset (fun t => t.setPc 0xFFF) = true := by decide
/-- T-CF-6 -/
theorem test_jumpOffset : gives 0xBFFF (regs [(0, 0xFF)]) (fun t => t.setPc 0x10FE) = true := by decide
/-- T-CF-8 -/
theorem test_call : gives 0x220A (State.reset.setPc 0x204)
    (fun t => (t.setStack (t.stack.set 0 0x206) 1).setPc 0x20A) = true := by decide
/-- T-CF-10 -/
theorem test_call_overflow : raises 0x2300 (State.reset.setStack (Vector.replicate 16 0x300) 16) .stackOverflow
    (fun t => t.setPc 0x202) = true := by decide
/-- T-CF-13 -/
theorem test_ret : gives 0x00EE (State.reset.setStack ((Vector.replicate 16 0).set 15 0xABC) 16)
    (fun t => (t.setStack t.stack 15).setPc 0xABC) = true := by decide
/-- T-CF-12 -/
theorem test_ret_underflow : raises 0x00EE State.reset .stackUnderflow (fun t => t.setPc 0x202) = true := by decide
/-- T-CF-14 -/
theorem test_skipEqImm : gives 0x3100 (State.reset.setPc 0x208) (fun t => t.setPc 0x20C) = true := by decide
/-- T-CF-15 -/
theorem test_skipEqImm_not : gives 0x3100 ((regs [(1, 1)]).setPc 0x208) (fun t => t.setPc 0x20A) = true := by decide
/-- T-CF-16 -/
theorem test_skipNeImm : gives 0x4100 ((regs [(1, 5)]).setPc 0x208) (fun t => t.setPc 0x20C) = true := by decide
/-- T-CF-17 -/
theorem test_skipNeImm_not : gives 0x4105 ((regs [(1, 5)]).setPc 0x208) (fun t => t.setPc 0x20A) = true := by decide
/-- T-CF-18 -/
theorem test_skipEqReg : gives 0x5120 ((regs [(1, 0x42), (2, 0x42)]).setPc 0x300) (fun t => t.setPc 0x304) = true := by decide
/-- T-CF-19 -/
theorem test_skipEqReg_not : gives 0x5120 ((regs [(1, 0x42), (2, 0x43)]).setPc 0x300) (fun t => t.setPc 0x302) = true := by
  decide
/-- T-CF-21 -/
theorem test_skipNeReg : gives 0x9120 ((regs [(1, 0x42), (2, 0x43)]).setPc 0x300) (fun t => t.setPc 0x304) = true := by decide
/-- T-CF-23 -/
theorem test_skipNeReg_not : gives 0x9330 ((regs [(3, 9)]).setPc 0x300) (fun t => t.setPc 0x302) = true := by decide

/-- T-M-1 -/
theorem test_loadIndex : gives 0xA300 (State.reset.setI 0xFFFF) (fun t => (t.setI 0x300).setPc 0x202) = true := by decide
/-- T-M-3 -/
theorem test_addIndex_wraps : gives 0xF01E ((regs [(0, 1)]).setI 0xFFFF) (fun t => (t.setI 0).setPc 0x202) = true := by decide
/-- T-M-7 -/
theorem test_loadFont : gives 0xF029 ((regs [(0, 0x0F)]).setI 0x300) (fun t => (t.setI 0x04B).setPc 0x202) = true := by decide
/-- T-M-9 -/
theorem test_loadFont_16 : raises 0xF029 ((regs [(0, 0x10)]).setI 0x300) (.invalidSprite 0x10) (fun t => t.setPc 0x202) = true := by
  decide
/-- T-M-17 -/
theorem test_storeBCD : gives 0xF033 ((regs [(0, 0xEA)]).setI 0xFFD) (fun t => (bytes 0xFFD [2, 3, 4] t).setPc 0x202) = true := by
  decide
/-- T-M-18 -/
theorem test_storeBCD_prefix : raises 0xF033 ((regs [(0, 0xEA)]).setI 0xFFE) (.addressOutOfBounds 0x1000)
    (fun t => (bytes 0xFFE [2, 3] t).setPc 0x202) = true := by decide
/-- T-M-22 -/
theorem test_regDump : gives 0xF255 ((regs [(0, 0x11), (1, 0x22), (2, 0x33), (3, 0x44)]).setI 0x400)
    (fun t => (bytes 0x400 [0x11, 0x22, 0x33] t).setPc 0x202) = true := by decide
/-- T-M-25 -/
theorem test_regDump_prefix : raises 0xF355 ((regs [(0, 0x11), (1, 0x22), (2, 0x33), (3, 0x44)]).setI 0xFFE)
    (.addressOutOfBounds 0x1000) (fun t => (bytes 0xFFE [0x11, 0x22] t).setPc 0x202) = true := by decide
/-- T-M-30 -/
theorem test_regLoad : gives 0xF465 (State.reset.setI 0x023)
    (fun t => (((((t.setV 0 0xF0).setV 1 0x10).setV 2 0x20).setV 3 0x40).setV 4 0x40).setPc 0x202) = true := by decide
/-- T-M-29 -/
theorem test_regLoad_prefix : raises 0xF365 (bytes 0xFFE [0x5A, 0x5B] ((regs [(2, 0xA2), (3, 0xA3)]).setI 0xFFE))
    (.addressOutOfBounds 0x1000) (fun t => ((t.setV 0 0x5A).setV 1 0x5B).setPc 0x202) = true := by decide

/-- T-D-1 -/
theorem test_clearScreen : gives 0x00E0 (fbb [(0, 0, 0xFF), (31, 7, 0x01)] (regs [(15, 1)]))
    (fun t => (t.setFb clearFrame).setPc 0x202) = true := by decide
/-- T-D-2: glyph 7 over both edges -/
theorem test_draw_wraps : gives 0xD125 ((regs [(1, 0x3E), (2, 0x1E)]).setI 0x023)
    (fun t => (fbb [(30, 7, 0x03), (30, 0, 0xC0), (31, 0, 0x40), (0, 0, 0x80), (1, 7, 0x01), (2, 7, 0x01)] t).setPc 0x202)
      = true := by decide
/-- T-D-7: erasure in the first row only -/
theorem test_draw_erases : gives 0xD012 (fbb [(0, 0, 0x80)] (bytes 0x300 [0x80, 0x80] (State.reset.setI 0x300)))
    (fun t => ((fbb [(1, 0, 0x80)] t).setV 15 1).setPc 0x202) = true := by decide

/-- T-K-1 -/
theorem test_getDelay : gives 0xF307 (State.reset.setDt 0x3C) (fun t => (t.setV 3 0x3C).setPc 0x202) = true := by decide
/-- T-K-3 -/
theorem test_setDelay : gives 0xF015 (regs [(0, 3)]) (fun t => (t.setDt 3).setPc 0x202) = true := by decide
/-- T-K-4 -/
theorem test_setSound : gives 0xF418 (regs [(4, 0x10)]) (fun t => (t.setSt 0x10).setPc 0x202) = true := by decide
/-- T-K-6 -/
theorem test_skipKeyPressed : gives 0xE09E ((regs [(0, 5)]).setKey (.key 5)) (fun t => t.setPc 0x204) = true := by decide
/-- T-K-9 -/
theorem test_skipKeyPressed_unmasked : gives 0xE09E ((regs [(0, 0x15)]).setKey (.key 5)) (fun t => t.setPc 0x202) = true := by
  decide
/-- T-K-11 -/
theorem test_skipKeyNotPressed : gives 0xE0A1 (regs [(0, 5)]) (fun t => t.setPc 0x204) = true := by decide
/-- T-K-14 -/
theorem test_skipKeyNotPressed_invalid : raises 0xE0A1 ((regs [(0, 5)]).setKey .invalid) .invalidKey (fun t => t.setPc 0x202)
    = true := by decide
/-- S9, first row -/
theorem test_waitForKey_waits : gives 0xF30A (regs [(3, 0x77)]) (fun t => t) = true := by decide
/-- S9, second row -/
theorem test_waitForKey_takes : gives 0xF30A ((regs [(3, 0x77)]).setKey (.key 0xF)) (fun t => (t.setV 3 0x0F).setPc 0x202)
    = true := by decide

/-! ## Fetch, and where withFetchWord places a word -/

/-- T-S-1 -/
theorem test_step_from_reset : step State.reset = .fault (.stepError (.invalidOpcode 0x0000) State.reset) := by rfl
/-- T-S-3 -/
theorem test_fetch_low_byte : step (bytes 0xFFF [0x12] (State.reset.setPc 0xFFF)) =
    .fault (.stepError (.addressOutOfBounds 0x1000) (bytes 0xFFF [0x12] (State.reset.setPc 0xFFF))) := by rfl
/-- T-S-7: a skip past the last instruction -/
theorem test_skip_past_end : gives 0x3000 (State.reset.setPc 0xFFE) (fun t => t.setPc 0x1002) = true := by decide
/-- Log 4: where nothing can be fetched at `PC`, the word stands at `LOAD_ADDR`. -/
theorem test_withFetchWord_past_end : gives 0x63A5 (State.reset.setPc 0xFFF) (fun t => (t.setV 3 0xA5).setPc 0x202) = true := by
  decide

/-! ## Memory, the host's transactions and the read ports -/

/-- Log 6: writing back what an unlisted cell reads as removes the entry. -/
theorem test_memory_canonical : ((Memory.put [] 0x300 7).put 0x300 0) = [] ∧ Memory.put [] 0 0xF0 = [] := by decide
/-- S1 -/
theorem test_memory_bounds : memRead State.reset 0xFFF = .ok 0 ∧ memRead State.reset 0x1000 = .error (.addressOutOfBounds 0x1000) ∧
    memRead State.reset 0x1000E = .error (.addressOutOfBounds 0x1000E) := by decide
/-- T-K-17, T-K-19 -/
theorem test_tick : tick (State.reset.setDt 1) = State.reset ∧
    tick ((State.reset.setDt 0xFF).setSt 0xFF) = (State.reset.setDt 0xFE).setSt 0xFE := by decide
/-- T-K-20, T-K-21, T-K-23 -/
theorem test_keys : classifyKey "a" = .key 0xA ∧ classifyKey "0" = .key 0 ∧ classifyKey "9" = .key 9 ∧
    classifyKey "f" = .key 0xF ∧ classifyKey "A" = .invalid ∧ classifyKey "g" = .invalid ∧ classifyKey "10" = .invalid ∧
    classifyKey "" = .invalid := by decide
/-- T-K-24 -/
theorem test_keyRelease : keyRelease (State.reset.setKey .invalid) = State.reset := by decide
/-- T-R-1 -/
theorem test_reset : resetCore (fbb [(0, 0, 1)] (bytes 0x001 [1, 2] (((regs [(3, 9)]).setDt 4).setPc 0xABC))) = State.reset := by
  decide
/-- T-R-2 -/
theorem test_load : load [0x12, 0x34, 0x56] State.reset = .next (bytes 0x200 [0x12, 0x34, 0x56] State.reset) := by rfl
/-- T-R-2 as the host's transaction, first in its order (R35) -/
theorem test_scheduled_load : step (State.reset.setSchedule [.host (.load [0x12]), .step]) =
    .next ((bytes 0x200 [0x12] State.reset).setSchedule [.step]) := by rfl
/-- R216, R240 -/
theorem test_observe : observe (.pixel 0 7) (fbb [(0, 0, 0x01)] State.reset) = .bit true ∧ observe .width State.reset = .count 64 ∧
    observe .height State.reset = .count 32 ∧ observe .getDelay (State.reset.setDt 3) = .timer 3 ∧
    observe .getSound (State.reset.setSt 4) = .timer 4 ∧ observe .peekKey State.reset = .latch .none := by decide
/-- S6: only coinciding 1 bits erase -/
theorem test_compose_overlap : (compose (compose clearFrame 11 16 [0x90]).1 11 17 [0xC0]).2 = false ∧
    (compose (compose clearFrame 11 16 [0x90]).1 11 17 [0x60]).2 = true := by decide

/-! ## Witnesses: states and operands that meet all hypotheses of a statement, at the ends of their ranges -/

theorem wit_DecodeEncodeRoundTrip : ∃ hi lo i, decode hi lo = .ok i := ⟨0xFF, 0x65, .regLoad 15, by decide⟩

theorem wit_UnmatchedWordsAreInvalidOpcode : ∃ hi lo e, decode hi lo = .error e :=
  ⟨0xFF, 0xFF, .invalidOpcode 0xFFFF, by decide⟩

/-- Both clauses, with the instruction in the last two bytes. -/
theorem wit_StepRunsTheDecodedInstruction : ∃ (s : State) (hi lo : Byte) (i : Instr), memRead s s.pc.toNat = .ok hi ∧
    memRead s (s.pc.toNat + 1) = .ok lo ∧ decode hi lo = .ok i ∧ s.schedule = [] ∧ s.pc = 0xFFE ∧
    (s.setSchedule [.step]).schedule = .step :: [] :=
  ⟨bytes 0xFFE [0x60, 0x01] (State.reset.setPc 0xFFE), 0x60, 0x01, .loadImm 0 1, by decide, by decide, by decide, rfl, rfl, rfl⟩

theorem wit_StoredWordIsTheNextInstruction : ∃ (s : State) (i : Instr) (t u : State), s.mem.wf ∧ s.schedule = [] ∧
    s.pc.toNat + 1 < 4096 ∧ memWrite s s.pc.toNat (highByte (encode i)) = .ok t ∧
    memWrite t (s.pc.toNat + 1) (lowByte (encode i)) = .ok u :=
  ⟨State.reset.setPc 0xFFE, .loadImm 0 1, _, _, by decide, rfl, by decide, rfl, rfl⟩

/-- The three clauses, the second at both ends of its range. -/
theorem wit_FetchAndDecodeErrorsChangeNothing : (State.reset.setPc 0xFFF).schedule = [] ∧ (State.reset.setPc 0xFFF).pc.toNat = 4095 ∧
    4096 ≤ (State.reset.setPc 0x1000).pc.toNat ∧ 4096 ≤ (State.reset.setPc 0xFFFF).pc.toNat ∧
    memRead (State.reset.setPc 0xFFE) (State.reset.setPc 0xFFE).pc.toNat = .ok 0 ∧
    memRead (State.reset.setPc 0xFFE) ((State.reset.setPc 0xFFE).pc.toNat + 1) = .ok 0 ∧
    decode 0 0 = .error (.invalidOpcode 0) := by decide

theorem wit_ScheduledTransactionHappensNext : ∃ (s t : State), s.schedule = .host .tick :: [.step] ∧ step s = .next t :=
  ⟨State.reset.setSchedule [.host .tick, .step], _, rfl, rfl⟩

/-- The clause about a read. -/
theorem wit_ScheduledTransactionHappensNext_read : (State.reset.setSchedule [.host (.read (.pixel 31 63))]).schedule =
    .host (.read (.pixel 31 63)) :: [] := rfl

/-- The clause about a `LOAD` that fails: one byte too many. -/
theorem wit_ScheduledTransactionHappensNext_fault : ∃ (s left : State) (e : Error),
    s.schedule = .host (.load (List.replicate 3585 0)) :: [] ∧ step s = .fault (.stepError e left) := by
  obtain ⟨t, -, h⟩ := storeBytes_fault (List.replicate 3585 0) Config.loadAddr (State.reset.setSchedule [])
    (by rw [List.length_replicate]; decide)
    (List.ne_nil_of_length_pos (by rw [List.length_replicate]; omega))
  exact ⟨State.reset.setSchedule [.host (.load (List.replicate 3585 0))], t, _, rfl, h⟩

theorem wit_InstructionsRaiseOnlyTheirOwnErrors : ∃ (i : Instr) (s left : State) (e : Error),
    exec i s = .fault (.stepError e left) := ⟨.loadFont 0, regs [(0, 0x10)], _, _, rfl⟩

/-- `PC` and every stack entry at their bounds. -/
theorem wit_EveryTransactionKeepsTheInvariant :
    StateInvariant ((State.reset.setPc 0x10FE).setStack (Vector.replicate 16 0x1000) 16) :=
  ⟨by decide, by decide, by decide⟩

theorem wit_EveryTransactionKeepsTheInvariant_next : ∃ t, StateInvariant (State.reset.withFetchWord 16 0x3000) ∧
    step (State.reset.withFetchWord 16 0x3000) = .next t := ⟨_, ⟨by decide, by decide, by decide⟩, rfl⟩

theorem wit_EveryTransactionKeepsTheInvariant_fault : ∃ e left, StateInvariant State.reset ∧
    step State.reset = .fault (.stepError e left) := ⟨_, _, ⟨by decide, by decide, by decide⟩, rfl⟩

/-- A run of two transactions: a program of one instruction is loaded, then runs. -/
theorem wit_ReachablePcIsBounded : ∃ t,
    Sys2Proof.core.run 2 (State.reset.setSchedule [.host (.load [0xBF, 0xFF])]) = .next t ∧ t.pc = 0xFFF := ⟨_, rfl, rfl⟩

theorem wit_InstructionsChangeOnlyTheirItems : ∃ (i : Instr) (s t : State), exec i s = .next t :=
  ⟨.regDump 15, State.reset.setI 0xFF0, _, rfl⟩

theorem wit_FailedInstructionsKeepOnlyTheirPrefix : ∃ (i : Instr) (s left : State) (e : Error),
    exec i s = .fault (.stepError e left) ∧ left ≠ s :=
  ⟨.storeBCD 0, (regs [(0, 0xEA)]).setI 0xFFE, bytes 0xFFE [2, 3] ((regs [(0, 0xEA)]).setI 0xFFE), _, rfl, by decide⟩

/-- A `RegLoad` that keeps the one register it loaded. -/
theorem wit_FailedInstructionsKeepOnlyTheirPrefix_regLoad : ∃ (s left : State) (e : Error),
    exec (.regLoad 3) s = .fault (.stepError e left) ∧ left ≠ s :=
  ⟨bytes 0xFFF [0x5A] (State.reset.setI 0xFFF), (bytes 0xFFF [0x5A] (State.reset.setI 0xFFF)).setV 0 0x5A, _, rfl, by decide⟩

theorem wit_OnlyRandomReadsTheRandomByte : (Instr.draw 0 1 5).mnemonic ≠ .random := by decide

theorem wit_HiddenItemsAreReadOnlyByTheirInstructions : (Instr.regLoad 0).mnemonic ≠ .draw ∧ (Instr.regLoad 0).mnemonic ≠ .clearScreen ∧
    (Instr.draw 0 1 5).mnemonic ≠ .skipKeyPressed ∧ (Instr.draw 0 1 5).mnemonic ≠ .skipKeyNotPressed ∧
    (Instr.draw 0 1 5).mnemonic ≠ .waitForKey ∧ (Instr.draw 0 1 5).mnemonic ≠ .getDelay ∧ (Instr.draw 0 1 5).mnemonic ≠ .setDelay ∧
    (Instr.jump 0).mnemonic ≠ .call ∧ (Instr.jump 0).mnemonic ≠ .ret := by decide

theorem wit_AddRegSumAndCarry : (14 : RegIx) ≠ vf := by decide
theorem wit_SubtractDifferenceAndNotBorrow : (0 : RegIx) ≠ vf := by decide
theorem wit_ShiftsMoveOneBitToVf : (14 : RegIx) ≠ vf := by decide
theorem wit_RandomMasksAFreeByte : (0x7F : Byte).getLsbD 7 = false := by decide

theorem wit_SideWrittenVfIsZeroOrOne : ∃ (i : Instr) (s t : State), exec i s = .next t ∧
    i.mnemonic ∈ [Mnemonic.addReg, .sub, .subN, .shiftRight, .shiftLeft, .draw] :=
  ⟨.addReg 15 15, regs [(15, 0x81)], _, rfl, by decide⟩

/-- Room for one more entry, and none. -/
theorem wit_CallPushesPcAndJumps : (State.reset.setStack (Vector.replicate 16 0) 15).sp.val < 16 ∧
    (State.reset.setStack (Vector.replicate 16 0) 16).sp.val = 16 := by decide

/-- One entry, sixteen entries, none. -/
theorem wit_ReturnPopsIntoPc : 0 < (State.reset.setStack (Vector.replicate 16 0x206) 1).sp.val ∧
    0 < (State.reset.setStack (Vector.replicate 16 0x206) 16).sp.val ∧
    (15 : Fin 16).val + 1 = (State.reset.setStack (Vector.replicate 16 0x206) 16).sp.val ∧ State.reset.sp.val = 0 := by decide

/-- The last call that fits, and a state later on with its stack and with other registers, memory and `PC`. -/
theorem wit_ReturnResumesAfterCall : ∃ s t v : State, s.sp.val = 15 ∧ s.sp.val < 16 ∧ exec (.call 0x300) s = .next t ∧
    v.stack = t.stack ∧ v.sp = t.sp ∧ v.pc ≠ t.pc ∧ v.getV 3 ≠ t.getV 3 ∧ v.mem ≠ t.mem :=
  ⟨State.reset.setStack (Vector.replicate 16 0) 15,
    (State.reset.setStack ((Vector.replicate 16 0).set 15 0x200) 16).setPc 0x300,
    (bytes 0x400 [7] (regs [(3, 9)])).setStack ((Vector.replicate 16 0).set 15 0x200) 16,
    rfl, by decide, rfl, rfl, rfl, by decide, by decide, by decide⟩

/-- Sixteen values on an empty stack; a full stack; an empty one. -/
theorem wit_StackIsLastInFirstOut : State.reset.sp.val + (List.replicate 16 (0x301 : Word)).length ≤ 16 ∧
    (State.reset.setStack (Vector.replicate 16 0) 16).sp.val = 16 ∧ State.reset.sp.val = 0 := by decide

theorem wit_MemoryReadAfterWrite : 4095 < 4096 ∧ State.reset.mem.wf ∧ 4096 ≤ 4096 ∧ (bytes 0x300 [7] State.reset).mem.wf := by decide

theorem wit_EqualBytesAreEqualMemories : (Memory.put [] 0x200 1).wf ∧ Memory.wf [(0x200, 1)] ∧
    ∀ a < 4096, (Memory.put [] 0x200 1).byteAt a = Memory.byteAt [(0x200, 1)] a :=
  ⟨by decide, by decide, fun _ _ => rfl⟩

theorem wit_LoadFontGivesGlyphAddress : ((regs [(0, 15)]).getV 0).toNat ≤ 15 ∧ 15 < ((regs [(0, 16)]).getV 0).toNat := by decide

theorem wit_StoreBcdStoresThreeDigits : (State.reset.setI 0xFFD).mem.wf ∧ (State.reset.setI 0xFFD).i.toNat + 2 < 4096 := by decide

theorem wit_RegDumpStoresRegisters : (State.reset.setI 0xFF0).mem.wf ∧
    (State.reset.setI 0xFF0).i.toNat + (15 : RegIx).toNat < 4096 := by decide

theorem wit_RegLoadLoadsRegisters : (State.reset.setI 0xFF0).i.toNat + (15 : RegIx).toNat < 4096 := by decide

/-- Each clause at the first failing `I` and at the largest. -/
theorem wit_BlockErrorsKeepTheirPrefix : (State.reset.setI 0xFFE).mem.wf ∧ 4096 ≤ (State.reset.setI 0xFFE).i.toNat + 2 ∧
    4096 ≤ (State.reset.setI 0xFFFF).i.toNat + 2 ∧ 4096 ≤ (State.reset.setI 0xFF1).i.toNat + (15 : RegIx).toNat ∧
    4096 ≤ (State.reset.setI 0x1000).i.toNat + (0 : RegIx).toNat ∧ 0 < (15 : Nibble).toNat ∧
    4096 < (State.reset.setI 0xFF2).i.toNat + (15 : Nibble).toNat ∧ 4096 < (State.reset.setI 0x1000).i.toNat + (1 : Nibble).toNat := by
  decide

theorem wit_RegLoadRestoresWhatRegDumpStored : ∃ (s t u : State) (x : RegIx), s.mem.wf ∧ exec (.regDump x) s = .next t ∧
    u.mem = t.mem ∧ u.i = s.i ∧ u.getV 0 ≠ s.getV 0 :=
  ⟨(regs [(0, 7)]).setI 0xFF0, bytes 0xFF0 [7] ((regs [(0, 7)]).setI 0xFF0),
    bytes 0xFF0 [7] ((regs [(0, 8)]).setI 0xFF0), 15, by decide, rfl, rfl, rfl, by decide⟩

theorem wit_ComposeFlipsTheCoveredPixels : (List.replicate 15 (0xFF : Byte)).length ≤ 15 := by decide

theorem wit_ComposingTwiceErases : [(0x01 : Byte)].length ≤ 15 ∧ (∃ b ∈ [(0x01 : Byte)], b ≠ 0) ∧
    (compose clearFrame 31 63 [0x01]).2 = false := by decide

/-- A byte over the right edge (shift 4), and an aligned one (shift 0). -/
theorem wit_ComposeAgreesWithItsByteForm : ((5 : Fin 32).val = 5 % 32 ∧ 4 = 60 % 64 % 8 ∧ (7 : Fin 8).val = 60 % 64 / 8 ∧
    (0 : Fin 8).val = ((7 : Fin 8).val + 1) % 8 ∧ (0x0A : Byte) = 0xAB >>> 4 ∧
    (0xB0 : Byte) = if 4 = 0 then 0 else 0xAB <<< (8 - 4)) ∧
    ((31 : Fin 32).val = 63 % 32 ∧ 0 = 80 % 64 % 8 ∧ (2 : Fin 8).val = 80 % 64 / 8 ∧ (3 : Fin 8).val = ((2 : Fin 8).val + 1) % 8 ∧
    (0xAB : Byte) = 0xAB >>> 0 ∧ (0 : Byte) = if 0 = 0 then 0 else 0xAB <<< (8 - 0)) := by decide

/-- A sprite of no rows anywhere, and the last place where fifteen rows fit. -/
theorem wit_DrawComposesTheSpriteAtI : ((0 : Nibble) = 0 ∨ (State.reset.setI 0xFFFF).i.toNat + (0 : Nibble).toNat ≤ 4096) ∧
    ((15 : Nibble) = 0 ∨ (State.reset.setI 0xFF1).i.toNat + (15 : Nibble).toNat ≤ 4096) := by decide

/-- No key, a matching key, another key, an invalid one. -/
theorem wit_KeySkipsCompareTheLatch : State.reset.key ≠ .invalid ∧ (State.reset.setKey (.key 15)).key ≠ .invalid ∧
    (∃ k : Nibble, (State.reset.setKey (.key 15)).key = .key k ∧ k.toNat = ((regs [(0, 15)]).getV 0).toNat) ∧
    (¬∃ k : Nibble, (State.reset.setKey (.key 15)).key = .key k ∧ k.toNat = ((regs [(0, 31)]).getV 0).toNat) ∧
    (State.reset.setKey .invalid).key = .invalid := by decide

theorem wit_WaitForKeyWaitsOrTakesTheKey : State.reset.key = .none ∧ (State.reset.setKey (.key 0)).key = .key 0 ∧
    (State.reset.setKey .invalid).key = .invalid := by decide

theorem wit_KeyTransactionsSetTheLatch : "A" ∉ keyStrings ∧ "10" ∉ keyStrings ∧ "" ∉ keyStrings := by decide

theorem wit_LoadCopiesTheImage : State.reset.mem.wf ∧ (List.replicate 3584 (1 : Byte)).length ≤ 3584 ∧
    3584 < (List.replicate 3585 (1 : Byte)).length := ⟨by decide, by rw [List.length_replicate], by rw [List.length_replicate]; omega⟩

theorem wit_BootThenLoadIsTheLaunchState : ∃ s : State, (List.replicate 3584 (1 : Byte)).length ≤ 3584 ∧
    s.schedule = .host .reset :: .host (.load (List.replicate 3584 1)) :: [.step] :=
  ⟨State.reset.setSchedule (.host .reset :: .host (.load (List.replicate 3584 1)) :: [.step]),
    by rw [List.length_replicate], rfl⟩

/-- T-CF-2 and the first row of S9. -/
theorem wit_SelfJumpAndWaitingAreFixedPoints : Finished (State.reset.withFetchWord 16 0x1200) ∧
    (State.reset.withFetchWord 16 0xF30A).schedule = [] ∧
    fetchDecode (State.reset.withFetchWord 16 0xF30A) = .ok (.waitForKey 3) ∧ (State.reset.withFetchWord 16 0xF30A).key = .none :=
  ⟨⟨0x200, rfl, rfl⟩, rfl, rfl, rfl⟩

end Sys2Proof.Tests
end

section
/-! Arithmetic on registers (`41_alu.md`). -/

namespace Sys2Proof.Machine

/-- R141: `AddImm` answers the state with the sum in `Vx`. -/
theorem exec_addImm (x : RegIx) (nn : Byte) (s : State) :
    exec (.addImm x nn) s = .next (s.setV x (sumOf (s.getV x) nn)) := rfl

/-- Settles O21: the one write of `AddImm` puts the wrapped sum in `Vx`, so every other register, `VF` among them, keeps
its value. -/
theorem addImmWrapsWithoutFlag : Obligations.AddImmWrapsWithoutFlag := by
  unfold Obligations.AddImmWrapsWithoutFlag
  intro s x nn
  refine ⟨s.setV x (sumOf (s.getV x) nn), exec_addImm x nn s, ?_, ?_⟩
  · rw [State.getV_setV_same, sumOf_toNat]
  · exact sameBut_setV x (sumOf (s.getV x) nn) (List.mem_singleton.mpr rfl)

end Sys2Proof.Machine
end

section
/-! Control transfer (`42_control_flow.md`). -/

namespace Sys2Proof.Machine

/-- R170: an absolute address, put in a 16-bit register, keeps its value. -/
@[simp] theorem addressOf_toNat (nnn : Addr12) : (addressOf nnn).toNat = nnn.toNat :=
  BitVec.toNat_setWidth_of_le (by decide)

/-- R170: `Jump` answers the state with its address in `PC`. -/
theorem exec_jump (nnn : Addr12) (s : State) : exec (.jump nnn) s = .next (s.setPc (addressOf nnn)) := rfl

/-- Settles O27: the one write of `Jump` puts the address in `PC`, without a check that could fail. -/
theorem jumpSetsPc : Obligations.JumpSetsPc := by
  unfold Obligations.JumpSetsPc
  intro s nnn
  refine ⟨s.setPc (addressOf nnn), exec_jump nnn s, ?_, ?_⟩
  · rw [State.setPc_pc, addressOf_toNat]
  · exact sameBut_setPc (addressOf nnn) (List.mem_singleton.mpr rfl)

end Sys2Proof.Machine
end

section
/-! The display (`44_display.md`). -/

namespace Sys2Proof.Machine

/-- R212: `ClearScreen` answers the state with the cleared framebuffer. -/
theorem exec_clearScreen (s : State) : exec .clearScreen s = .next (s.setFb clearFrame) := rfl

/-- Settles O43: the one write of `ClearScreen` puts the cleared framebuffer in place, so `VF` keeps its value whether or
not a pixel was set. -/
theorem clearScreenClearsEveryPixel : Obligations.ClearScreenClearsEveryPixel := by
  unfold Obligations.ClearScreenClearsEveryPixel
  intro s
  refine ⟨s.setFb clearFrame, exec_clearScreen s, ?_, ?_⟩
  · intro r c
    rw [State.setFb_fb, pixel_clearFrame]
  · exact sameBut_setFb clearFrame (List.mem_singleton.mpr rfl)

end Sys2Proof.Machine
end

section
/-! The host's timer transaction (`45_timers_input.md`). -/

namespace Sys2Proof.Machine

/-- R237: a tick is truncated subtraction on the counter's value. -/
@[simp] theorem ticked_toNat (b : Byte) : (ticked b).toNat = b.toNat - 1 := by
  have hb : b.toNat < 2 ^ 8 := b.isLt
  unfold ticked
  split
  · rw [BitVec.toNat_ofNat, Nat.mod_eq_of_lt (by omega)]
  · omega

/-- R237: `TICK` puts one tick of its own old value in `DT`. -/
@[simp] theorem tick_dt (s : State) : (tick s).dt = ticked s.dt := rfl

/-- R237: `TICK` puts one tick of its own old value in `ST`. -/
@[simp] theorem tick_st (s : State) : (tick s).st = ticked s.st := rfl

/-- R237: the two writes of `TICK` reach the timers alone. -/
theorem sameBut_tick (s : State) : SameBut [.delay, .sound] s (tick s) :=
  (sameBut_setDt (ticked s.dt) (by decide)).trans (sameBut_setSt (ticked s.st) (by decide))

/-- R237: the host's `TICK` answers the ticked state, with no check that could fail. -/
theorem hostMove_tick (s : State) : hostMove .tick s = .next (tick s) := rfl

/-- Settles O51: each timer is ticked from its own old value, where truncated subtraction is the floor at 0. -/
theorem tickDecrementsWithFloor : Obligations.TickDecrementsWithFloor := by
  unfold Obligations.TickDecrementsWithFloor
  intro s
  refine ⟨tick s, hostMove_tick s, ?_, ?_, sameBut_tick s⟩
  · rw [tick_dt, ticked_toNat]
  · rw [tick_st, ticked_toNat]

end Sys2Proof.Machine
end

section
/-! The encoding (`30_encoding.md`): the mask of a row tests exactly the fields the decision tree looks at, and the
instruction of a row takes its operands from the fields the mask leaves free. -/

namespace Sys2Proof

/-! ### What a mask keeps, and what it leaves free -/

/-- The mask of the formats A, XI and XYN keeps the family. -/
theorem and_F000_eq (w : Word) : w &&& 0xF000#16 = (famOf w).setWidth 16 <<< 12 := by
  apply BitVec.eq_of_getLsbD_eq
  intro k hk
  simp only [famOf, BitVec.getLsbD_and]
  interval_cases k <;> simp

/-- The mask of the format XY keeps the family and the sub-opcode `n`. -/
theorem and_F00F_eq (w : Word) : w &&& 0xF00F#16 = (famOf w).setWidth 16 <<< 12 ||| (nOf w).setWidth 16 := by
  apply BitVec.eq_of_getLsbD_eq
  intro k hk
  simp only [famOf, nOf, BitVec.getLsbD_and, BitVec.getLsbD_or]
  interval_cases k <;> simp

/-- The mask of the format XS keeps the family and the sub-opcode `nn`. -/
theorem and_F0FF_eq (w : Word) : w &&& 0xF0FF#16 = (famOf w).setWidth 16 <<< 12 ||| (nnOf w).setWidth 16 := by
  apply BitVec.eq_of_getLsbD_eq
  intro k hk
  simp only [famOf, nnOf, BitVec.getLsbD_and, BitVec.getLsbD_or]
  interval_cases k <;> simp

theorem famOf_and {M : Word} (hM : famOf M = 0xF) (w : Word) : famOf (w &&& M) = famOf w := by
  have h : famOf (w &&& M) = famOf w &&& famOf M := BitVec.extractLsb'_and
  rw [h, hM]
  exact BitVec.and_allOnes

theorem nOf_and {M : Word} (hM : nOf M = 0xF) (w : Word) : nOf (w &&& M) = nOf w := by
  have h : nOf (w &&& M) = nOf w &&& nOf M := BitVec.extractLsb'_and
  rw [h, hM]
  exact BitVec.and_allOnes

theorem nnOf_and {M : Word} (hM : nnOf M = 0xFF) (w : Word) : nnOf (w &&& M) = nnOf w := by
  have h : nnOf (w &&& M) = nnOf w &&& nnOf M := BitVec.extractLsb'_and
  rw [h, hM]
  exact BitVec.and_allOnes

/-- A word is its family and its `nnn`. -/
theorem family_or_nnn (w : Word) : w &&& 0xF000#16 ||| (nnnOf w).setWidth 16 = w := by
  apply BitVec.eq_of_getLsbD_eq
  intro k hk
  simp only [nnnOf, BitVec.getLsbD_and, BitVec.getLsbD_or]
  interval_cases k <;> simp

/-- A word is its family, its `x` and its `nn`. -/
theorem family_or_x_or_nn (w : Word) : w &&& 0xF000#16 ||| (xOf w).setWidth 16 <<< 8 ||| (nnOf w).setWidth 16 = w := by
  apply BitVec.eq_of_getLsbD_eq
  intro k hk
  simp only [xOf, nnOf, BitVec.getLsbD_and, BitVec.getLsbD_or]
  interval_cases k <;> simp

/-- A word is its family, its `x`, its `y` and its `n`. -/
theorem family_or_x_or_y_or_n (w : Word) :
    w &&& 0xF000#16 ||| (xOf w).setWidth 16 <<< 8 ||| (yOf w).setWidth 16 <<< 4 ||| (nOf w).setWidth 16 = w := by
  apply BitVec.eq_of_getLsbD_eq
  intro k hk
  simp only [xOf, yOf, nOf, BitVec.getLsbD_and, BitVec.getLsbD_or]
  interval_cases k <;> simp

/-- A word is its family with its sub-opcode `n`, its `x` and its `y`. -/
theorem family_n_or_x_or_y (w : Word) :
    w &&& 0xF00F#16 ||| (xOf w).setWidth 16 <<< 8 ||| (yOf w).setWidth 16 <<< 4 = w := by
  apply BitVec.eq_of_getLsbD_eq
  intro k hk
  simp only [xOf, yOf, BitVec.getLsbD_and, BitVec.getLsbD_or]
  interval_cases k <;> simp

/-- A word is its family with its sub-opcode `nn`, and its `x`. -/
theorem family_nn_or_x (w : Word) : w &&& 0xF0FF#16 ||| (xOf w).setWidth 16 <<< 8 = w := by
  apply BitVec.eq_of_getLsbD_eq
  intro k hk
  simp only [xOf, BitVec.getLsbD_and, BitVec.getLsbD_or]
  interval_cases k <;> simp

/-! ### A row of the opcode map -/

/-- The word `w` has the match bits of the row `m` under its mask (R96). -/
def HasRow (m : Mnemonic) (w : Word) : Prop := w &&& m.maskBits = m.matchBits

/-- The instruction of the row `m` with the operand fields of `w` (R92, R93). -/
def instrOfRow (m : Mnemonic) (w : Word) : Instr :=
  match m with
  | .clearScreen => .clearScreen
  | .ret => .ret
  | .jump => .jump (nnnOf w)
  | .call => .call (nnnOf w)
  | .skipEqImm => .skipEqImm (xOf w) (nnOf w)
  | .skipNeImm => .skipNeImm (xOf w) (nnOf w)
  | .skipEqReg => .skipEqReg (xOf w) (yOf w)
  | .loadImm => .loadImm (xOf w) (nnOf w)
  | .addImm => .addImm (xOf w) (nnOf w)
  | .move => .move (xOf w) (yOf w)
  | .or => .or (xOf w) (yOf w)
  | .and => .and (xOf w) (yOf w)
  | .xor => .xor (xOf w) (yOf w)
  | .addReg => .addReg (xOf w) (yOf w)
  | .sub => .sub (xOf w) (yOf w)
  | .shiftRight => .shiftRight (xOf w) (yOf w)
  | .subN => .subN (xOf w) (yOf w)
  | .shiftLeft => .shiftLeft (xOf w) (yOf w)
  | .skipNeReg => .skipNeReg (xOf w) (yOf w)
  | .loadIndex => .loadIndex (nnnOf w)
  | .jumpOffset => .jumpOffset (nnnOf w)
  | .random => .random (xOf w) (nnOf w)
  | .draw => .draw (xOf w) (yOf w) (nOf w)
  | .skipKeyPressed => .skipKeyPressed (xOf w)
  | .skipKeyNotPressed => .skipKeyNotPressed (xOf w)
  | .getDelay => .getDelay (xOf w)
  | .waitForKey => .waitForKey (xOf w)
  | .setDelay => .setDelay (xOf w)
  | .setSound => .setSound (xOf w)
  | .addIndex => .addIndex (xOf w)
  | .loadFont => .loadFont (xOf w)
  | .storeBCD => .storeBCD (xOf w)
  | .regDump => .regDump (xOf w)
  | .regLoad => .regLoad (xOf w)

@[simp] theorem mnemonic_instrOfRow (m : Mnemonic) (w : Word) : (instrOfRow m w).mnemonic = m := by
  cases m <;> rfl

/-- Every row's mask covers the family. -/
theorem HasRow.famOf_eq {m : Mnemonic} {w : Word} (h : HasRow m w) : famOf w = famOf m.matchBits := by
  have hmask : famOf m.maskBits = 0xF := by cases m <;> rfl
  rw [← h, famOf_and hmask]

/-- The mask of a row of format XY covers the sub-opcode `n`. -/
theorem HasRow.nOf_eq {m : Mnemonic} {w : Word} (h : HasRow m w) (hm : m.maskBits = 0xF00F#16) :
    nOf w = nOf m.matchBits := by
  rw [← h, hm, nOf_and rfl]

/-- The mask of a row of format XS covers the sub-opcode `nn`. -/
theorem HasRow.nnOf_eq {m : Mnemonic} {w : Word} (h : HasRow m w) (hm : m.maskBits = 0xF0FF#16) :
    nnOf w = nnOf m.matchBits := by
  rw [← h, hm, nnOf_and rfl]

/-- The mask of a row of format Z covers the word. -/
theorem HasRow.eq_matchBits {m : Mnemonic} {w : Word} (h : HasRow m w) (hm : m.maskBits = 0xFFFF#16) :
    w = m.matchBits := by
  rw [← h, hm]
  exact BitVec.and_allOnes.symm

theorem hasRow_of_famOf {m : Mnemonic} {w : Word} (hm : m.maskBits = 0xF000#16) (hfam : famOf w = famOf m.matchBits) :
    HasRow m w := by
  have hrow := matchBits_within_maskBits m
  rw [hm, and_F000_eq] at hrow
  rw [HasRow, hm, and_F000_eq, hfam, hrow]

theorem hasRow_of_famOf_nOf {m : Mnemonic} {w : Word} (hm : m.maskBits = 0xF00F#16)
    (hfam : famOf w = famOf m.matchBits) (hn : nOf w = nOf m.matchBits) : HasRow m w := by
  have hrow := matchBits_within_maskBits m
  rw [hm, and_F00F_eq] at hrow
  rw [HasRow, hm, and_F00F_eq, hfam, hn, hrow]

theorem hasRow_of_famOf_nnOf {m : Mnemonic} {w : Word} (hm : m.maskBits = 0xF0FF#16)
    (hfam : famOf w = famOf m.matchBits) (hnn : nnOf w = nnOf m.matchBits) : HasRow m w := by
  have hrow := matchBits_within_maskBits m
  rw [hm, and_F0FF_eq] at hrow
  rw [HasRow, hm, and_F0FF_eq, hfam, hnn, hrow]

/-! ### The decision tree and the rows -/

/-- A word of a row decodes to the row's instruction. -/
theorem decodeWord_of_hasRow {m : Mnemonic} {w : Word} (h : HasRow m w) : decodeWord w = .ok (instrOfRow m w) := by
  have hfam := h.famOf_eq
  cases m with
  | clearScreen | ret =>
    rw [h.eq_matchBits rfl]
    rfl
  | jump | call | loadIndex | jumpOffset | skipEqImm | skipNeImm | loadImm | addImm | random | draw =>
    simp only [decodeWord, hfam]
    rfl
  | skipEqReg | skipNeReg =>
    simp only [decodeWord, hfam, h.nOf_eq rfl]
    rfl
  | move | or | and | xor | addReg | sub | shiftRight | subN | shiftLeft =>
    simp only [decodeWord, decodeFamily8, hfam, h.nOf_eq rfl]
    rfl
  | skipKeyPressed | skipKeyNotPressed =>
    simp only [decodeWord, decodeFamilyE, hfam, h.nnOf_eq rfl]
    rfl
  | getDelay | waitForKey | setDelay | setSound | addIndex | loadFont | storeBCD | regDump | regLoad =>
    simp only [decodeWord, decodeFamilyF, hfam, h.nnOf_eq rfl]
    rfl

/-- All that decoding can answer: the instruction of a row the word has, or a refusal with the raw word. -/
def DecodesByRow (w : Word) (r : Except OpcodeError Instr) : Prop :=
  (∃ m, HasRow m w ∧ r = .ok (instrOfRow m w)) ∨ r = .error (.invalidOpcode w)

theorem HasRow.decodesByRow {m : Mnemonic} {w : Word} (h : HasRow m w) : DecodesByRow w (.ok (instrOfRow m w)) :=
  .inl ⟨m, h, rfl⟩

theorem decodesByRow_error (w : Word) : DecodesByRow w (.error (.invalidOpcode w)) := .inr rfl

/-- A test of the tree answers by row when both its answers do. -/
theorem DecodesByRow.ite {w : Word} {c : Prop} [Decidable c] {r r' : Except OpcodeError Instr}
    (h : c → DecodesByRow w r) (h' : ¬c → DecodesByRow w r') : DecodesByRow w (if c then r else r') := by
  split
  · exact h ‹c›
  · exact h' ‹¬c›

theorem decodeFamily8_byRow {w : Word} (hfam : famOf w = 0x8#4) : DecodesByRow w (decodeFamily8 w) := by
  have hrow {m : Mnemonic} (hm : m.maskBits = 0xF00F#16) (h8 : famOf m.matchBits = 0x8#4) (hn : nOf w = nOf m.matchBits) :
      DecodesByRow w (.ok (instrOfRow m w)) := (hasRow_of_famOf_nOf hm (hfam.trans h8.symm) hn).decodesByRow
  unfold decodeFamily8
  refine .ite (fun hn => hrow (m := .move) rfl rfl hn) fun _ => ?_
  refine .ite (fun hn => hrow (m := .or) rfl rfl hn) fun _ => ?_
  refine .ite (fun hn => hrow (m := .and) rfl rfl hn) fun _ => ?_
  refine .ite (fun hn => hrow (m := .xor) rfl rfl hn) fun _ => ?_
  refine .ite (fun hn => hrow (m := .addReg) rfl rfl hn) fun _ => ?_
  refine .ite (fun hn => hrow (m := .sub) rfl rfl hn) fun _ => ?_
  refine .ite (fun hn => hrow (m := .shiftRight) rfl rfl hn) fun _ => ?_
  refine .ite (fun hn => hrow (m := .subN) rfl rfl hn) fun _ => ?_
  exact .ite (fun hn => hrow (m := .shiftLeft) rfl rfl hn) fun _ => decodesByRow_error w

theorem decodeFamilyE_byRow {w : Word} (hfam : famOf w = 0xE#4) : DecodesByRow w (decodeFamilyE w) := by
  unfold decodeFamilyE
  refine .ite (fun hnn => (hasRow_of_famOf_nnOf (m := .skipKeyPressed) rfl hfam hnn).decodesByRow) fun _ => ?_
  exact .ite (fun hnn => (hasRow_of_famOf_nnOf (m := .skipKeyNotPressed) rfl hfam hnn).decodesByRow)
    fun _ => decodesByRow_error w

theorem decodeFamilyF_byRow {w : Word} (hfam : famOf w = 0xF#4) : DecodesByRow w (decodeFamilyF w) := by
  have hrow {m : Mnemonic} (hm : m.maskBits = 0xF0FF#16) (hF : famOf m.matchBits = 0xF#4)
      (hnn : nnOf w = nnOf m.matchBits) : DecodesByRow w (.ok (instrOfRow m w)) :=
    (hasRow_of_famOf_nnOf hm (hfam.trans hF.symm) hnn).decodesByRow
  unfold decodeFamilyF
  refine .ite (fun hnn => hrow (m := .getDelay) rfl rfl hnn) fun _ => ?_
  refine .ite (fun hnn => hrow (m := .waitForKey) rfl rfl hnn) fun _ => ?_
  refine .ite (fun hnn => hrow (m := .setDelay) rfl rfl hnn) fun _ => ?_
  refine .ite (fun hnn => hrow (m := .setSound) rfl rfl hnn) fun _ => ?_
  refine .ite (fun hnn => hrow (m := .addIndex) rfl rfl hnn) fun _ => ?_
  refine .ite (fun hnn => hrow (m := .loadFont) rfl rfl hnn) fun _ => ?_
  refine .ite (fun hnn => hrow (m := .storeBCD) rfl rfl hnn) fun _ => ?_
  refine .ite (fun hnn => hrow (m := .regDump) rfl rfl hnn) fun _ => ?_
  exact .ite (fun hnn => hrow (m := .regLoad) rfl rfl hnn) fun _ => decodesByRow_error w

/-- The decision tree of R95 answers by the rows of R96 (R97 for the words of none). -/
theorem decodeWord_byRow (w : Word) : DecodesByRow w (decodeWord w) := by
  have hrow {m : Mnemonic} (hm : m.maskBits = 0xF000#16) (hfam : famOf w = famOf m.matchBits) :
      DecodesByRow w (.ok (instrOfRow m w)) := (hasRow_of_famOf hm hfam).decodesByRow
  unfold decodeWord
  refine .ite (fun _ => ?_) fun h0 => ?_
  · refine .ite (fun hw => HasRow.decodesByRow (m := .clearScreen) (hw ▸ rfl)) fun _ => ?_
    exact .ite (fun hw => HasRow.decodesByRow (m := .ret) (hw ▸ rfl)) fun _ => decodesByRow_error w
  refine .ite (fun hfam => hrow (m := .jump) rfl hfam) fun h1 => ?_
  refine .ite (fun hfam => hrow (m := .call) rfl hfam) fun h2 => ?_
  refine .ite (fun hfam => hrow (m := .skipEqImm) rfl hfam) fun h3 => ?_
  refine .ite (fun hfam => hrow (m := .skipNeImm) rfl hfam) fun h4 => ?_
  refine .ite (fun hfam => ?_) fun h5 => ?_
  · exact .ite (fun hn => (hasRow_of_famOf_nOf (m := .skipEqReg) rfl hfam hn).decodesByRow) fun _ => decodesByRow_error w
  refine .ite (fun hfam => hrow (m := .loadImm) rfl hfam) fun h6 => ?_
  refine .ite (fun hfam => hrow (m := .addImm) rfl hfam) fun h7 => ?_
  refine .ite (fun hfam => decodeFamily8_byRow hfam) fun h8 => ?_
  refine .ite (fun hfam => ?_) fun h9 => ?_
  · exact .ite (fun hn => (hasRow_of_famOf_nOf (m := .skipNeReg) rfl hfam hn).decodesByRow) fun _ => decodesByRow_error w
  refine .ite (fun hfam => hrow (m := .loadIndex) rfl hfam) fun hA => ?_
  refine .ite (fun hfam => hrow (m := .jumpOffset) rfl hfam) fun hB => ?_
  refine .ite (fun hfam => hrow (m := .random) rfl hfam) fun hC => ?_
  refine .ite (fun hfam => hrow (m := .draw) rfl hfam) fun hD => ?_
  refine .ite (fun hfam => decodeFamilyE_byRow hfam) fun hE => ?_
  exact decodeFamilyF_byRow (by bv_omega)

/-- Decoding is exact: an instruction is answered for the words of its row, with their operands. -/
theorem decodeWord_eq_ok_iff {w : Word} {i : Instr} :
    decodeWord w = .ok i ↔ HasRow i.mnemonic w ∧ i = instrOfRow i.mnemonic w := by
  constructor
  · intro h
    rcases decodeWord_byRow w with ⟨m, hm, hok⟩ | herr
    · obtain rfl : i = instrOfRow m w := by simpa [h] using hok
      simpa using hm
    · simp [h] at herr
  · rintro ⟨hm, hi⟩
    rw [decodeWord_of_hasRow hm, ← hi]

/-- Decoding refuses with the raw word or not at all (R97, R99). -/
theorem decodeWord_error {w : Word} {e : OpcodeError} (h : decodeWord w = .error e) : e = .invalidOpcode w := by
  rcases decodeWord_byRow w with ⟨m, -, hok⟩ | herr
  · simp [h] at hok
  · simpa [h] using herr

/-! ### The encoder and the rows -/

/-- An encoded instruction has its own row. -/
theorem hasRow_encode (i : Instr) : HasRow i.mnemonic (encode i) := by
  cases i with
  | clearScreen | ret => rfl
  | jump nnn | call nnn | loadIndex nnn | jumpOffset nnn =>
    exact (and_formatA _ nnn).trans (matchBits_within_maskBits _)
  | skipEqImm x nn | skipNeImm x nn | loadImm x nn | addImm x nn | random x nn =>
    exact (and_formatXI _ x nn).trans (matchBits_within_maskBits _)
  | skipEqReg x y | skipNeReg x y | move x y | or x y | and x y | xor x y | addReg x y | sub x y | shiftRight x y
  | subN x y | shiftLeft x y =>
    exact (and_formatXY _ x y).trans (matchBits_within_maskBits _)
  | draw x y n => exact (and_formatXYN _ x y n).trans (matchBits_within_maskBits _)
  | skipKeyPressed x | skipKeyNotPressed x | getDelay x | waitForKey x | setDelay x | setSound x | addIndex x
  | loadFont x | storeBCD x | regDump x | regLoad x =>
    exact (and_formatXS _ x).trans (matchBits_within_maskBits _)

/-! The operand fields of an encoded instruction are its operands: its row's match bits are 0 there. -/

theorem nnnOf_encodeA {m : Mnemonic} (hm : m.format = .a) (nnn : Addr12) : nnnOf (encodeA m nnn) = nnn := by
  have hzero : nnnOf m.matchBits = 0 := by cases m <;> cases hm; all_goals rfl
  rw [encodeA, (fields_formatA _ nnn).2, hzero]
  exact BitVec.zero_or

theorem fields_encodeXI {m : Mnemonic} (hm : m.format = .xi) (x : RegIx) (nn : Byte) :
    xOf (encodeXI m x nn) = x ∧ nnOf (encodeXI m x nn) = nn := by
  have hzero : xOf m.matchBits = 0 ∧ nnOf m.matchBits = 0 := by cases m <;> cases hm; all_goals exact ⟨rfl, rfl⟩
  obtain ⟨-, hx, hnn⟩ := fields_formatXI m.matchBits x nn
  rw [encodeXI, hx, hnn, hzero.1, hzero.2]
  exact ⟨BitVec.zero_or, BitVec.zero_or⟩

theorem fields_encodeXY {m : Mnemonic} (hm : m.format = .xy) (x y : RegIx) :
    xOf (encodeXY m x y) = x ∧ yOf (encodeXY m x y) = y := by
  have hzero : xOf m.matchBits = 0 ∧ yOf m.matchBits = 0 := by cases m <;> cases hm; all_goals exact ⟨rfl, rfl⟩
  obtain ⟨-, hx, hy, -⟩ := fields_formatXY m.matchBits x y
  rw [encodeXY, hx, hy, hzero.1, hzero.2]
  exact ⟨BitVec.zero_or, BitVec.zero_or⟩

theorem fields_encodeXYN {m : Mnemonic} (hm : m.format = .xyn) (x y : RegIx) (n : Nibble) :
    xOf (encodeXYN m x y n) = x ∧ yOf (encodeXYN m x y n) = y ∧ nOf (encodeXYN m x y n) = n := by
  have hzero : xOf m.matchBits = 0 ∧ yOf m.matchBits = 0 ∧ nOf m.matchBits = 0 := by
    cases m <;> cases hm; all_goals exact ⟨rfl, rfl, rfl⟩
  obtain ⟨-, hx, hy, hn⟩ := fields_formatXYN m.matchBits x y n
  rw [encodeXYN, hx, hy, hn, hzero.1, hzero.2.1, hzero.2.2]
  exact ⟨BitVec.zero_or, BitVec.zero_or, BitVec.zero_or⟩

theorem xOf_encodeXS {m : Mnemonic} (hm : m.format = .xs) (x : RegIx) : xOf (encodeXS m x) = x := by
  have hzero : xOf m.matchBits = 0 := by cases m <;> cases hm; all_goals rfl
  rw [encodeXS, (fields_formatXS _ x).2.1, hzero]
  exact BitVec.zero_or

/-- An encoded instruction is the instruction of its row with the encoded operands. -/
theorem instrOfRow_encode (i : Instr) : instrOfRow i.mnemonic (encode i) = i := by
  cases i with
  | clearScreen | ret => rfl
  | jump nnn | call nnn | loadIndex nnn | jumpOffset nnn =>
    simp (disch := decide) only [Instr.mnemonic, instrOfRow, encode, nnnOf_encodeA]
  | skipEqImm x nn | skipNeImm x nn | loadImm x nn | addImm x nn | random x nn =>
    simp (disch := decide) only [Instr.mnemonic, instrOfRow, encode, fields_encodeXI]
  | skipEqReg x y | skipNeReg x y | move x y | or x y | and x y | xor x y | addReg x y | sub x y | shiftRight x y
  | subN x y | shiftLeft x y =>
    simp (disch := decide) only [Instr.mnemonic, instrOfRow, encode, fields_encodeXY]
  | draw x y n => simp (disch := decide) only [Instr.mnemonic, instrOfRow, encode, fields_encodeXYN]
  | skipKeyPressed x | skipKeyNotPressed x | getDelay x | waitForKey x | setDelay x | setSound x | addIndex x
  | loadFont x | storeBCD x | regDump x | regLoad x =>
    simp (disch := decide) only [Instr.mnemonic, instrOfRow, encode, xOf_encodeXS]

/-- Encoding the instruction of a row the word has gives the word: the match bits are its bits under the mask. -/
theorem encode_instrOfRow {m : Mnemonic} {w : Word} (h : HasRow m w) : encode (instrOfRow m w) = w := by
  cases m with
  | clearScreen | ret => exact (h.eq_matchBits rfl).symm
  | jump | call | loadIndex | jumpOffset =>
    refine Eq.trans ?_ (family_or_nnn w)
    exact congrArg (· ||| (nnnOf w).setWidth 16) h.symm
  | skipEqImm | skipNeImm | loadImm | addImm | random =>
    refine Eq.trans ?_ (family_or_x_or_nn w)
    exact congrArg (· ||| (xOf w).setWidth 16 <<< 8 ||| (nnOf w).setWidth 16) h.symm
  | skipEqReg | skipNeReg | move | or | and | xor | addReg | sub | shiftRight | subN | shiftLeft =>
    refine Eq.trans ?_ (family_n_or_x_or_y w)
    exact congrArg (· ||| (xOf w).setWidth 16 <<< 8 ||| (yOf w).setWidth 16 <<< 4) h.symm
  | draw =>
    refine Eq.trans ?_ (family_or_x_or_y_or_n w)
    exact congrArg (· ||| (xOf w).setWidth 16 <<< 8 ||| (yOf w).setWidth 16 <<< 4 ||| (nOf w).setWidth 16) h.symm
  | skipKeyPressed | skipKeyNotPressed | getDelay | waitForKey | setDelay | setSound | addIndex | loadFont | storeBCD
  | regDump | regLoad =>
    refine Eq.trans ?_ (family_nn_or_x w)
    exact congrArg (· ||| (xOf w).setWidth 16 <<< 8) h.symm

/-! ### The statements -/

/-- The bytes of an encoded instruction decode to it. -/
theorem decode_encode (i : Instr) : decode (highByte (encode i)) (lowByte (encode i)) = .ok i := by
  rw [decode_high_low, decodeWord_of_hasRow (hasRow_encode i), instrOfRow_encode]

/-- Settles O1: an encoded instruction has its own row and its own operands, and a word that decodes is rebuilt from its
row's match bits and its operand fields. -/
theorem decodeEncodeRoundTrip : Obligations.DecodeEncodeRoundTrip := by
  unfold Obligations.DecodeEncodeRoundTrip
  refine ⟨decode_encode, fun hi lo i h => ?_⟩
  obtain ⟨hrow, hi⟩ := decodeWord_eq_ok_iff.mp h
  rw [hi, encode_instrOfRow hrow]

/-- Settles O2: both sides say that the word has the row. -/
theorem decodeAgreesWithOpcodeMap : Obligations.DecodeAgreesWithOpcodeMap := by
  unfold Obligations.DecodeAgreesWithOpcodeMap
  intro hi lo m
  constructor
  · rintro ⟨i, h, rfl⟩
    exact (decodeWord_eq_ok_iff.mp h).1
  · intro h
    exact ⟨instrOfRow m (wordOf hi lo), decodeWord_of_hasRow h, mnemonic_instrOfRow m _⟩

/-- Settles O3: decoding answers by row, so a word without one is left to the refusal, which carries the raw word. -/
theorem unmatchedWordsAreInvalidOpcode : Obligations.UnmatchedWordsAreInvalidOpcode := by
  unfold Obligations.UnmatchedWordsAreInvalidOpcode
  intro hi lo
  refine ⟨⟨fun hnone => ?_, fun herr m hm => ?_⟩, fun e h => decodeWord_error h⟩
  · rcases decodeWord_byRow (wordOf hi lo) with ⟨m, hm, -⟩ | herr
    · exact absurd hm (hnone m)
    · exact herr
  · have hok : decode hi lo = _ := decodeWord_of_hasRow hm
    simp [hok] at herr

/-- Settles O4: the decision tree run on the twenty words. -/
theorem wordsOfTheOpcodeMapDecode : Obligations.WordsOfTheOpcodeMapDecode := by
  unfold Obligations.WordsOfTheOpcodeMapDecode
  decide

end Sys2Proof
end

section
/-! Memory and the block instructions (`20_memory.md`, `43_index_memory.md`): canonical memories are equal when their bytes
are, and a block transfer either fits or stops at the first address past the end. -/

namespace Sys2Proof.Machine

/-! ### The canonical form -/

theorem Memory.wf_cons {c : Host.Cell} {m : Memory} :
    Memory.wf (c :: m) ↔ (∀ d ∈ m, c.1 < d.1) ∧ (c.1 < Config.memSize ∧ c.2 ≠ unlistedByte c.1) ∧ m.wf := by
  unfold Memory.wf
  rw [List.pairwise_cons, List.forall_mem_cons]
  tauto

/-- A listed cell differs from what an unlisted address reads as, so another memory with the same bytes lists it too. -/
theorem Memory.head_le_of_byteAt_eq {c d : Host.Cell} {m m' : Memory} (hc : Memory.wf (c :: m))
    (hd : Memory.wf (d :: m')) (h : ∀ a < Config.memSize, Memory.byteAt (c :: m) a = Memory.byteAt (d :: m') a) :
    d.1 ≤ c.1 := by
  obtain ⟨-, ⟨hlt, hne⟩, -⟩ := Memory.wf_cons.mp hc
  obtain ⟨hrise, -, -⟩ := Memory.wf_cons.mp hd
  by_contra hcd
  have hbelow : ∀ e ∈ d :: m', c.1 < e.1 :=
    List.forall_mem_cons.mpr ⟨by omega, fun e he => Nat.lt_trans (by omega) (hrise e he)⟩
  have hbyte := h c.1 hlt
  rw [Memory.byteAt_of_lt _ _ hbelow] at hbyte
  exact hne (by simpa [Memory.byteAt] using hbyte)

/-- Two canonical memories with the same bytes are the same list. -/
theorem Memory.eq_of_byteAt_eq {m m' : Memory} (hm : m.wf) (hm' : m'.wf)
    (h : ∀ a < Config.memSize, m.byteAt a = m'.byteAt a) : m = m' := by
  induction m generalizing m' with
  | nil =>
    cases m' with
    | nil => rfl
    | cons d m' =>
      obtain ⟨-, ⟨hlt, hne⟩, -⟩ := Memory.wf_cons.mp hm'
      exact absurd (by simpa [Memory.byteAt] using (h d.1 hlt).symm) hne
  | cons c m ih =>
    obtain ⟨hcm, ⟨hlt, hne⟩, hwf⟩ := Memory.wf_cons.mp hm
    cases m' with
    | nil => exact absurd (by simpa [Memory.byteAt] using h c.1 hlt) hne
    | cons d m' =>
      obtain ⟨hdm, -, hwf'⟩ := Memory.wf_cons.mp hm'
      have haddr : c.1 = d.1 :=
        Nat.le_antisymm (Memory.head_le_of_byteAt_eq hm' hm fun a ha => (h a ha).symm)
          (Memory.head_le_of_byteAt_eq hm hm' h)
      have hbyte : c.2 = d.2 := by simpa [Memory.byteAt, haddr] using h c.1 hlt
      have hrest : ∀ a < Config.memSize, Memory.byteAt m a = Memory.byteAt m' a := by
        intro a ha
        by_cases hca : c.1 = a
        · rw [Memory.byteAt_of_lt m a (hca ▸ hcm), Memory.byteAt_of_lt m' a (hca ▸ haddr ▸ hdm)]
        · simpa [Memory.byteAt, hca, ← haddr] using h a ha
      rw [ih hwf hwf' hrest, Prod.ext haddr hbyte]

/-- Settles O35: a canonical memory lists exactly the cells its bytes force it to. -/
theorem equalBytesAreEqualMemories : Obligations.EqualBytesAreEqualMemories := by
  unfold Obligations.EqualBytesAreEqualMemories
  intro m m' hm hm' h
  exact Memory.eq_of_byteAt_eq hm hm' h

/-- Settles O34: a write puts one byte, which the canonical order lets a read find, and both primitives check the address
first. -/
theorem memoryReadAfterWrite : Obligations.MemoryReadAfterWrite := by
  unfold Obligations.MemoryReadAfterWrite
  intro s a b
  refine ⟨fun ha hwf => ?_, fun ha => ⟨memRead_error ha, memWrite_error b ha⟩⟩
  refine ⟨s.setMem (s.mem.put a b), memWrite_ok b ha, ?_, ?_, s.mem.byteAt a, memRead_ok ha⟩
  · rw [memRead_ok ha, State.setMem_mem, Memory.byteAt_put_same _ _ _ hwf.1]
  · exact sameBut_setMem _ fun a' ha' => Memory.byteAt_put_other _ _ (by simpa using ha')

/-! ### Runs of accesses -/

/-- What holds of the state an instruction completes in holds of the state it answers. -/
theorem Completes.of_next {i : Instr} {s t : State} {post : State → Prop} (hc : Completes i s post)
    (h : exec i s = .next t) : post t := by
  obtain ⟨t', h', hpost⟩ := hc
  obtain rfl : t' = t := by simpa [h'] using h
  exact hpost

/-- A run of writes that fits puts each byte at its address and changes nothing else. -/
theorem storeBytes_completes {bs : List Byte} {a : Nat} {s : State} (hwf : s.mem.wf)
    (h : bs = [] ∨ a + bs.length ≤ Config.memSize) :
    ∃ t, storeBytes a bs s = .next t ∧ (∀ k (hk : k < bs.length), memRead t (a + k) = .ok bs[k]) ∧
      SameBut (bytesFrom a bs.length) s t := by
  obtain ⟨m, hm⟩ := storeBytes_next bs a s h
  refine ⟨_, hm, fun k hk => ?_, sameBut_storeBytes_next hm⟩
  have hfit : a + bs.length ≤ Config.memSize := h.resolve_left (List.ne_nil_of_length_pos (by omega))
  rw [memRead_ok (by omega), storeBytes_byteAt bs a s _ hwf hm k hk]

/-- A run of writes raises because it does not fit, at its first address past the end, with what fits written. -/
theorem storeBytes_fault_inv {bs : List Byte} {a : Nat} {s left : State} {e : Error}
    (h : storeBytes a bs s = .fault (.stepError e left)) :
    e = .addressOutOfBounds (max a Config.memSize) ∧ Config.memSize < a + bs.length ∧
      storeBytes a (bs.take (Config.memSize - a)) s = .next left := by
  by_cases hfit : bs = [] ∨ a + bs.length ≤ Config.memSize
  · obtain ⟨m, hm⟩ := storeBytes_next bs a s hfit
    simp [hm] at h
  · rw [not_or, Nat.not_le] at hfit
    obtain ⟨t, ht, hf⟩ := storeBytes_fault bs a s hfit.2 hfit.1
    obtain ⟨rfl, rfl⟩ : _ = e ∧ t = left := by simpa [hf] using h
    exact ⟨rfl, hfit.2, ht⟩

/-- A run of writes that raises has changed no byte but those of its addresses below the end (R255). -/
theorem sameBut_bytesBelowEnd_of_fault {bs : List Byte} {a : Nat} {s left : State} {e : Error}
    (h : storeBytes a bs s = .fault (.stepError e left)) : SameBut (bytesFrom a (Config.memSize - a)) s left := by
  obtain ⟨-, hlen, hnext⟩ := storeBytes_fault_inv h
  have htake : (bs.take (Config.memSize - a)).length = Config.memSize - a := by rw [List.length_take]; omega
  exact htake ▸ sameBut_storeBytes_next hnext

/-- A run of writes that does not fit raises, with the bytes of its addresses below the end written. -/
theorem storeBytes_raises {bs : List Byte} {a : Nat} {s : State} (hwf : s.mem.wf) (hne : bs ≠ [])
    (h : Config.memSize < a + bs.length) :
    ∃ left, storeBytes a bs s = .fault (.stepError (.addressOutOfBounds (max a Config.memSize)) left) ∧
      (∀ k (hk : k < bs.length), a + k < Config.memSize → memRead left (a + k) = .ok bs[k]) ∧
      SameBut (bytesFrom a (Config.memSize - a)) s left := by
  obtain ⟨left, hnext, hfault⟩ := storeBytes_fault bs a s h hne
  refine ⟨left, hfault, fun k hk hak => ?_, sameBut_bytesBelowEnd_of_fault hfault⟩
  have hbyte := storeBytes_byteAt _ a s left hwf hnext k (by rw [List.length_take]; omega)
  rw [memRead_ok hak, hbyte, List.getElem_take]

/-- A run of register loads from `V0` that fits loads its registers and changes nothing else. -/
theorem loadRegs_completes {n a : Nat} (s : State) (hn : n ≤ 16) (h : n = 0 ∨ a + n ≤ Config.memSize) :
    ∃ t, loadRegs a 0 n s = .next t ∧ (∀ k : RegIx, k.toNat < n → memRead s (a + k.toNat) = .ok (t.getV k)) ∧
      SameBut (regsBelow n) s t := by
  obtain ⟨v, hv, hreg⟩ := loadRegs_next n a 0 s (by omega) h
  refine ⟨{ s with v := v }, hv, fun k hk => ?_, sameBut_regs v fun k hk => ?_⟩
  · have hvk : v[k.toNat] = s.mem.byteAt (a + k.toNat) := by rw [hreg k, if_pos (by omega), Nat.sub_zero]
    rw [memRead_ok (by omega)]
    exact congrArg Except.ok hvk.symm
  · rw [mem_regsBelow k n hn] at hk
    rw [hreg k, if_neg (by omega)]

/-- A run of register loads from `V0` that does not fit raises, with the registers of its addresses below the end loaded. -/
theorem loadRegs_raises {n a : Nat} (s : State) (hn : n ≤ 16) (hpos : 0 < n) (h : Config.memSize < a + n) :
    ∃ left, loadRegs a 0 n s = .fault (.stepError (.addressOutOfBounds (max a Config.memSize)) left) ∧
      (∀ k : RegIx, a + k.toNat < Config.memSize → memRead s (a + k.toNat) = .ok (left.getV k)) ∧
      SameBut (regsBelow (Config.memSize - a)) s left := by
  obtain ⟨left, hnext, hfault⟩ := loadRegs_fault n a 0 s (by omega) h hpos
  obtain ⟨t, ht, hreg, hframe⟩ := loadRegs_completes (n := Config.memSize - a) (a := a) s (by omega) (by omega)
  obtain rfl : left = t := by simpa [hnext] using ht
  exact ⟨left, hfault, fun k hk => hreg k (by omega), hframe⟩

/-! ### The block instructions -/

/-- R193: `StoreBCD` is the run of writes of the digits at `I`. -/
theorem exec_storeBCD (x : RegIx) (s : State) :
    exec (.storeBCD x) s = storeBytes s.i.toNat (decimalDigits (s.getV x)) s := rfl

/-- R194: `RegDump` is the run of writes of the registers at `I`. -/
theorem exec_regDump (x : RegIx) (s : State) : exec (.regDump x) s = storeBytes s.i.toNat (regsUpTo s x) s :=
  afterBlock_eq x _

/-- R195: `RegLoad` is the run of register loads from `I`. -/
theorem exec_regLoad (x : RegIx) (s : State) : exec (.regLoad x) s = loadRegs s.i.toNat 0 (x.toNat + 1) s :=
  afterBlock_eq x _

@[simp] theorem decimalDigits_length (b : Byte) : (decimalDigits b).length = 3 := by simp [decimalDigits]

/-- The digits stand in the order of R193. -/
theorem decimalDigits_getElem (b : Byte) (k : Nat) (hk : k < (decimalDigits b).length) :
    (decimalDigits b)[k].toNat = bcdDigit b.toNat k := by
  have hb : b.toNat < 2 ^ 8 := b.isLt
  rw [decimalDigits_length] at hk
  interval_cases k
  all_goals
    simp [decimalDigits, bcdDigit]
    omega

/-- A digit is decimal, the hundreds too, since a byte is below 1000. -/
theorem bcdDigit_le_nine (b : Byte) (k : Nat) : bcdDigit b.toNat k ≤ 9 := by
  have hb : b.toNat < 2 ^ 8 := b.isLt
  unfold bcdDigit
  split_ifs <;> omega

/-- The digits make up the value. -/
theorem bcdDigits_sum (v : Nat) : 100 * bcdDigit v 0 + 10 * bcdDigit v 1 + bcdDigit v 2 = v := by
  simp [bcdDigit]
  omega

/-- Settles O38: the three writes fit, and the digits at their addresses make up the value. -/
theorem storeBcdStoresThreeDigits : Obligations.StoreBcdStoresThreeDigits := by
  unfold Obligations.StoreBcdStoresThreeDigits
  intro s x hwf hfit
  obtain ⟨t, ht, hbytes, hframe⟩ :=
    storeBytes_completes (bs := decimalDigits (s.getV x)) (a := s.i.toNat) hwf
      (.inr (by rw [decimalDigits_length, Config.memSize]; omega))
  refine ⟨t, ht, fun k hk => ?_, ?_, hframe⟩
  · have hk' : k < (decimalDigits (s.getV x)).length := hk
    exact ⟨_, hbytes k hk', decimalDigits_getElem _ k hk', decimalDigits_getElem _ k hk' ▸ bcdDigit_le_nine _ k⟩
  · refine ⟨_, _, _, hbytes 0 (by simp), hbytes 1 (by simp), hbytes 2 (by simp), ?_⟩
    simp only [decimalDigits_getElem, bcdDigits_sum]

/-- Settles O39: the writes fit, and the `k`-th byte written is `Vk`. -/
theorem regDumpStoresRegisters : Obligations.RegDumpStoresRegisters := by
  unfold Obligations.RegDumpStoresRegisters
  intro s x hwf hfit
  obtain ⟨t, ht, hbytes, hframe⟩ :=
    storeBytes_completes (bs := regsUpTo s x) (a := s.i.toNat) hwf (.inr (by rw [regsUpTo_length, Config.memSize]; omega))
  refine ⟨t, (exec_regDump x s).trans ht, fun k hk => ?_, regsUpTo_length s x ▸ hframe⟩
  rw [hbytes k.toNat (by rw [regsUpTo_length]; omega), regsUpTo_getElem s hk]

/-- Settles O40: the reads fit, and each register takes the byte of its address. -/
theorem regLoadLoadsRegisters : Obligations.RegLoadLoadsRegisters := by
  unfold Obligations.RegLoadLoadsRegisters
  intro s x hfit
  obtain ⟨t, ht, hregs, hframe⟩ :=
    loadRegs_completes (n := x.toNat + 1) (a := s.i.toNat) s x.isLt (.inr (by rw [Config.memSize]; omega))
  exact ⟨t, (exec_regLoad x s).trans ht, fun k hk => hregs k (by omega), hframe⟩

/-- `RegDump` completes only where its bytes are in range. -/
theorem fits_of_regDump_next {x : RegIx} {s t : State} (h : exec (.regDump x) s = .next t) :
    s.i.toNat + x.toNat < Config.memSize := by
  by_contra hfit
  obtain ⟨left, -, hfault⟩ := storeBytes_fault (regsUpTo s x) s.i.toNat s (by rw [regsUpTo_length]; omega)
    (List.ne_nil_of_length_pos (by simp))
  simp [exec_regDump, hfault] at h

/-- Settles O42: the bytes `RegDump` put at `I` are the ones `RegLoad` reads back there. -/
theorem regLoadRestoresWhatRegDumpStored : Obligations.RegLoadRestoresWhatRegDumpStored := by
  unfold Obligations.RegLoadRestoresWhatRegDumpStored
  intro s t u x hwf hdump hmem hi
  have hfit := fits_of_regDump_next hdump
  obtain ⟨hstored, -⟩ := (regDumpStoresRegisters s x hwf hfit).of_next hdump
  obtain ⟨w, hw, hloaded, -⟩ := regLoadLoadsRegisters u x (hi ▸ hfit)
  refine ⟨w, hw, fun k hk => ?_⟩
  have hread := hloaded k hk
  rw [hi, memRead_congr hmem, hstored k hk] at hread
  exact (Except.ok.inj hread).symm

/-- R213: a `Draw` whose range passes the end raises while it reads, before it changes anything. -/
theorem exec_draw_raises {s : State} (x y : RegIx) {n : Nibble} (hn : 0 < n.toNat)
    (h : Config.memSize < s.i.toNat + n.toNat) :
    exec (.draw x y n) s = .fault (.stepError (.addressOutOfBounds (max s.i.toNat Config.memSize)) s) := by
  have hread : readBytes s (effectiveAddress s 0) n.toNat = _ := readBytes_error n.toNat s.i.toNat s h hn
  show execDraw x y n s = _
  rw [execDraw, hread, orRaise_error]

/-- Settles O41: each of the four runs past the end, so it raises there with what came before done. -/
theorem blockErrorsKeepTheirPrefix : Obligations.BlockErrorsKeepTheirPrefix := by
  unfold Obligations.BlockErrorsKeepTheirPrefix
  intro s x y n
  refine ⟨fun hwf hpast => ?_, fun hwf hpast => ?_, fun hpast => ?_, fun hn hpast => exec_draw_raises x y hn hpast⟩
  · obtain ⟨left, hleft, hbytes, hframe⟩ := storeBytes_raises (bs := decimalDigits (s.getV x)) (a := s.i.toNat) hwf
      (List.ne_nil_of_length_pos (by simp)) (by rw [decimalDigits_length, Config.memSize]; omega)
    exact ⟨left, hleft, fun k hk hin => ⟨_, hbytes k hk hin, decimalDigits_getElem _ k hk⟩, hframe⟩
  · obtain ⟨left, hleft, hbytes, hframe⟩ := storeBytes_raises (bs := regsUpTo s x) (a := s.i.toNat) hwf
      (List.ne_nil_of_length_pos (by simp)) (by rw [regsUpTo_length, Config.memSize]; omega)
    refine ⟨left, (exec_regDump x s).trans hleft, fun k hin => ?_, hframe⟩
    have hk : k.toNat ≤ x.toNat := by omega
    rw [hbytes k.toNat (by rw [regsUpTo_length]; omega) hin, regsUpTo_getElem s hk]
  · obtain ⟨left, hleft, hregs, hframe⟩ :=
      loadRegs_raises (n := x.toNat + 1) (a := s.i.toNat) s x.isLt (by omega) (by rw [Config.memSize]; omega)
    exact ⟨left, (exec_regLoad x s).trans hleft, hregs, hframe⟩

end Sys2Proof.Machine
end

section
/-! Registers (`41_alu.md`): what each instruction leaves in `Vx` and in `VF`. -/

namespace Sys2Proof.Machine

/-! ### What each instruction answers -/

theorem exec_loadImm (x : RegIx) (nn : Byte) (s : State) : exec (.loadImm x nn) s = .next (s.setV x nn) := rfl

theorem exec_move (x y : RegIx) (s : State) : exec (.move x y) s = .next (s.setV x (s.getV y)) := rfl

theorem exec_or (x y : RegIx) (s : State) : exec (.or x y) s = .next (s.setV x (s.getV x ||| s.getV y)) := rfl

theorem exec_and (x y : RegIx) (s : State) : exec (.and x y) s = .next (s.setV x (s.getV x &&& s.getV y)) := rfl

theorem exec_xor (x y : RegIx) (s : State) : exec (.xor x y) s = .next (s.setV x (s.getV x ^^^ s.getV y)) := rfl

theorem exec_addReg (x y : RegIx) (s : State) : exec (.addReg x y) s =
    .next (writeResultAndFlag s x (sumOf (s.getV x) (s.getV y)) (carryOf (s.getV x) (s.getV y))) := rfl

theorem exec_sub (x y : RegIx) (s : State) : exec (.sub x y) s =
    .next (writeResultAndFlag s x (differenceOf (s.getV x) (s.getV y)) (notBorrowOf (s.getV x) (s.getV y))) := rfl

theorem exec_subN (x y : RegIx) (s : State) : exec (.subN x y) s =
    .next (writeResultAndFlag s x (differenceOf (s.getV y) (s.getV x)) (notBorrowOf (s.getV y) (s.getV x))) := rfl

theorem exec_shiftRight (x y : RegIx) (s : State) : exec (.shiftRight x y) s =
    .next (writeResultAndFlag s x (shiftedRight (s.getV x)) (lowBitOf (s.getV x))) := rfl

theorem exec_shiftLeft (x y : RegIx) (s : State) : exec (.shiftLeft x y) s =
    .next (writeResultAndFlag s x (shiftedLeft (s.getV x)) (highBitOf (s.getV x))) := rfl

theorem exec_random (x : RegIx) (nn : Byte) (s : State) :
    exec (.random x nn) s = .next ((s.setV x (Config.rnd s.draws &&& nn)).setDraws (s.draws + 1)) := rfl

/-! ### Results and flags -/

/-- An instruction that writes a result and then its flag: any property of the result holds of `Vx`, unless the flag
took its place (R152). -/
theorem completes_writeResultAndFlag {i : Instr} {s : State} {x : RegIx} {result flag flag' : Byte} {P : Byte → Prop}
    (h : exec i s = .next (writeResultAndFlag s x result flag)) (hresult : P result) (hflag : flag = flag') :
    Completes i s fun t => (x ≠ vf → P (t.getV x)) ∧ t.getV vf = flag' ∧ SameBut [.reg x, .reg vf] s t := by
  refine ⟨_, h, fun hx => ?_, ?_, sameBut_writeResultAndFlag x result flag (by simp) (by simp)⟩
  · rwa [getV_result_writeResultAndFlag s result flag hx]
  · rw [getV_vf_writeResultAndFlag, hflag]

theorem flagOf_decide (p : Prop) [Decidable p] : flagOf (decide p) = if p then 1 else 0 := by simp [flagOf]

theorem shiftedRight_eq (a : Byte) : shiftedRight a = a >>> 1 := by
  apply BitVec.eq_of_toNat_eq
  have ha : a.toNat < 2 ^ 8 := a.isLt
  rw [shiftedRight, BitVec.toNat_ofNat, BitVec.toNat_ushiftRight, Nat.shiftRight_eq_div_pow]
  omega

theorem shiftedLeft_eq (a : Byte) : shiftedLeft a = a <<< 1 := by
  apply BitVec.eq_of_toNat_eq
  rw [shiftedLeft, BitVec.toNat_ofNat, BitVec.toNat_shiftLeft, Nat.shiftLeft_eq]

theorem lowBitOf_eq (a : Byte) : lowBitOf a = if a.getLsbD 0 then 1 else 0 := by
  rw [lowBitOf, BitVec.getLsbD, Nat.testBit_eq_decide_div_mod_eq]
  rcases Nat.mod_two_eq_zero_or_one a.toNat with h | h <;> simp [h]

theorem highBitOf_eq (a : Byte) : highBitOf a = if a.getLsbD 7 then 1 else 0 := by
  have ha : a.toNat < 2 ^ 8 := a.isLt
  have hbit : a.toNat / 128 = 0 ∨ a.toNat / 128 = 1 := by omega
  rw [highBitOf, BitVec.getLsbD, Nat.testBit_eq_decide_div_mod_eq]
  rcases hbit with h | h <;> simp [h]

/-- A flag given by a condition is 0 or 1. -/
theorem ite_flag_cases (p : Prop) [Decidable p] : (if p then (1 : Byte) else 0) = 0 ∨ (if p then (1 : Byte) else 0) = 1 := by
  split
  · exact .inr rfl
  · exact .inl rfl

/-! ### The statements -/

/-- Settles O20: one write of `Vx` each, and a logic instruction's bit is the logic of the operands' bits. -/
theorem loadMoveAndLogicResults : Obligations.LoadMoveAndLogicResults := by
  unfold Obligations.LoadMoveAndLogicResults
  intro s x y nn
  have hframe (b : Byte) : SameBut [.reg x] s (s.setV x b) := sameBut_setV x b (List.mem_singleton.mpr rfl)
  refine ⟨⟨_, exec_loadImm x nn s, State.getV_setV_same s x nn, hframe nn⟩,
    ⟨_, exec_move x y s, State.getV_setV_same s x _, hframe _⟩,
    ⟨_, exec_or x y s, hframe _, fun b _ => ?_⟩, ⟨_, exec_and x y s, hframe _, fun b _ => ?_⟩,
    ⟨_, exec_xor x y s, hframe _, fun b _ => ?_⟩⟩
  · rw [State.getV_setV_same, BitVec.getLsbD_or]
  · rw [State.getV_setV_same, BitVec.getLsbD_and]
  · rw [State.getV_setV_same, BitVec.getLsbD_xor]

/-- Settles O22: the carry is the flag, written after the sum. -/
theorem addRegSumAndCarry : Obligations.AddRegSumAndCarry := by
  unfold Obligations.AddRegSumAndCarry
  intro s x y
  exact completes_writeResultAndFlag (exec_addReg x y s)
    (P := fun r => r.toNat = ((s.getV x).toNat + (s.getV y).toNat) % 256) (sumOf_toNat _ _) (flagOf_decide _)

/-- The difference as the integer one modulo 256. -/
theorem differenceOf_toInt (a b : Byte) : ((differenceOf a b).toNat : Int) = (a.toNat - b.toNat : Int) % 256 := by
  have hb : b.toNat < 2 ^ 8 := b.isLt
  rw [differenceOf_toNat]
  omega

/-- Settles O23: the same difference and the same flag, `SubN` with its operands exchanged. -/
theorem subtractDifferenceAndNotBorrow : Obligations.SubtractDifferenceAndNotBorrow := by
  unfold Obligations.SubtractDifferenceAndNotBorrow
  intro s x y
  constructor
  · exact completes_writeResultAndFlag (exec_sub x y s)
      (P := fun r => (r.toNat : Int) = ((s.getV x).toNat - (s.getV y).toNat : Int) % 256)
      (differenceOf_toInt _ _) (flagOf_decide _)
  · exact completes_writeResultAndFlag (exec_subN x y s)
      (P := fun r => (r.toNat : Int) = ((s.getV y).toNat - (s.getV x).toNat : Int) % 256)
      (differenceOf_toInt _ _) (flagOf_decide _)

/-- A right shift moves each bit one place down and a 0 in at the top. -/
theorem getLsbD_shiftedRight (a : Byte) (b : Nat) (hb : b < 8) :
    (shiftedRight a).getLsbD b = (decide (b < 7) && a.getLsbD (b + 1)) := by
  rw [shiftedRight_eq, BitVec.getLsbD_ushiftRight, Nat.add_comm]
  by_cases h7 : b < 7
  · simp [h7]
  · rw [BitVec.getLsbD_of_ge a (b + 1) (by omega), Bool.and_false]

/-- A left shift moves each bit one place up and a 0 in at the bottom. -/
theorem getLsbD_shiftedLeft (a : Byte) (b : Nat) (hb : b < 8) :
    (shiftedLeft a).getLsbD b = (decide (0 < b) && a.getLsbD (b - 1)) := by
  rw [shiftedLeft_eq, BitVec.getLsbD_shiftLeft]
  simp [hb, Nat.pos_iff_ne_zero]

/-- Settles O24: both shifts read `Vx` alone, and the flag is its bit at the end it leaves. -/
theorem shiftsMoveOneBitToVf : Obligations.ShiftsMoveOneBitToVf := by
  unfold Obligations.ShiftsMoveOneBitToVf
  intro s x y
  constructor
  · exact completes_writeResultAndFlag (exec_shiftRight x y s)
      (P := fun r => ∀ b < 8, r.getLsbD b = (decide (b < 7) && (s.getV x).getLsbD (b + 1)))
      (getLsbD_shiftedRight _) (lowBitOf_eq _)
  · exact completes_writeResultAndFlag (exec_shiftLeft x y s)
      (P := fun r => ∀ b < 8, r.getLsbD b = (decide (0 < b) && (s.getV x).getLsbD (b - 1)))
      (getLsbD_shiftedLeft _) (highBitOf_eq _)

/-- Settles O25: a bit outside the mask is 0 whatever the free byte holds there, and the next draw has the next number. -/
theorem randomMasksAFreeByte : Obligations.RandomMasksAFreeByte := by
  unfold Obligations.RandomMasksAFreeByte
  intro s x nn
  have hreg : ((s.setV x (Config.rnd s.draws &&& nn)).setDraws (s.draws + 1)).getV x = Config.rnd s.draws &&& nn :=
    State.getV_setV_same s x _
  refine ⟨_, exec_random x nn s, hreg, fun b _ hb => ?_, rfl, ?_⟩
  · rw [hreg, BitVec.getLsbD_and, hb, Bool.and_false]
  · exact (sameBut_setV x _ (by simp)).trans (sameBut_setDraws _ (by simp))

/-- Settles O26: the flag of each of the six is given by a condition and written last. -/
theorem sideWrittenVfIsZeroOrOne : Obligations.SideWrittenVfIsZeroOrOne := by
  unfold Obligations.SideWrittenVfIsZeroOrOne
  intro i s t h hmem
  have hflag {x : RegIx} {result flag : Byte} (ht : exec i s = .next (writeResultAndFlag s x result flag))
      (hf : flag = 0 ∨ flag = 1) : t.getV vf = 0 ∨ t.getV vf = 1 := by
    obtain rfl : writeResultAndFlag s x result flag = t := by simpa [ht] using h
    rwa [getV_vf_writeResultAndFlag]
  cases i with
  | addReg x y => exact hflag (exec_addReg x y s) (flagOf_cases _)
  | sub x y => exact hflag (exec_sub x y s) (flagOf_cases _)
  | subN x y => exact hflag (exec_subN x y s) (flagOf_cases _)
  | shiftRight x y => exact hflag (exec_shiftRight x y s) (lowBitOf_eq _ ▸ ite_flag_cases _)
  | shiftLeft x y => exact hflag (exec_shiftLeft x y s) (highBitOf_eq _ ▸ ite_flag_cases _)
  | draw x y n =>
    obtain ⟨sprite, -, ht⟩ := orRaise_next h
    injection ht with ht
    rw [← ht, State.getV_setV_same]
    exact flagOf_cases _
  | _ => simp [Instr.mnemonic] at hmem

end Sys2Proof.Machine
end

section
/-! Control transfer, the index register, the timers and the keys (`42_control_flow.md`, `43_index_memory.md`,
`45_timers_input.md`). -/

namespace Sys2Proof.Machine

/-! ### Jumps and skips -/

theorem exec_jumpOffset (nnn : Addr12) (s : State) :
    exec (.jumpOffset nnn) s = .next (s.setPc (addressOf nnn + widened (s.getV 0))) := rfl

@[simp] theorem widened_toNat (b : Byte) : (widened b).toNat = b.toNat := BitVec.toNat_setWidth_of_le (by decide)

/-- R173: the sum of a 12-bit address and a byte stays below 65536. -/
theorem jumpOffset_target_toNat (nnn : Addr12) (b : Byte) :
    (addressOf nnn + widened b).toNat = nnn.toNat + b.toNat := by
  have hn : nnn.toNat < 2 ^ 12 := nnn.isLt
  have hb : b.toNat < 2 ^ 8 := b.isLt
  rw [BitVec.toNat_add, addressOf_toNat, widened_toNat]
  omega

/-- R173: the largest target is 0xFFF + 0xFF. -/
theorem jumpOffset_target_le (nnn : Addr12) (b : Byte) : (addressOf nnn + widened b).toNat ≤ 0x10FE := by
  have hn : nnn.toNat < 2 ^ 12 := nnn.isLt
  have hb : b.toNat < 2 ^ 8 := b.isLt
  rw [jumpOffset_target_toNat]
  omega

/-- Settles O28: the one write of `JumpOffset` puts the sum in `PC`. -/
theorem jumpOffsetAddsV0 : Obligations.JumpOffsetAddsV0 := by
  unfold Obligations.JumpOffsetAddsV0
  intro s nnn
  exact ⟨_, exec_jumpOffset nnn s, jumpOffset_target_toNat nnn _, jumpOffset_target_le nnn _,
    sameBut_setPc _ (List.mem_singleton.mpr rfl)⟩

theorem exec_skipEqImm (x : RegIx) (nn : Byte) (s : State) :
    exec (.skipEqImm x nn) s = .next (skipIf (decide (s.getV x = nn)) s) := rfl

theorem exec_skipNeImm (x : RegIx) (nn : Byte) (s : State) :
    exec (.skipNeImm x nn) s = .next (skipIf (decide (s.getV x ≠ nn)) s) := rfl

theorem exec_skipEqReg (x y : RegIx) (s : State) :
    exec (.skipEqReg x y) s = .next (skipIf (decide (s.getV x = s.getV y)) s) := rfl

theorem exec_skipNeReg (x y : RegIx) (s : State) :
    exec (.skipNeReg x y) s = .next (skipIf (decide (s.getV x ≠ s.getV y)) s) := rfl

/-- A skip that is taken moves `PC` by 2, one that is not leaves it. -/
theorem skipIf_pc_toNat (c : Bool) (s : State) :
    (skipIf c s).pc.toNat = (s.pc.toNat + if c then 2 else 0) % 65536 := by
  have hpc : s.pc.toNat < 2 ^ 16 := s.pc.isLt
  cases c
  · exact (Nat.mod_eq_of_lt hpc).symm
  · simp [skipIf]

/-- An instruction that skips on a condition moves `PC` by what the condition gives and changes nothing else. -/
theorem completes_skip {i : Instr} {s : State} {c : Bool} {d : Nat} (h : exec i s = .next (skipIf c s))
    (hd : (if c then 2 else 0) = d) :
    Completes i s fun t => t.pc.toNat = (s.pc.toNat + d) % 65536 ∧ SameBut [.pc] s t :=
  ⟨_, h, hd ▸ skipIf_pc_toNat c s, sameBut_skipIf c (List.mem_singleton.mpr rfl)⟩

/-- Settles O32: each is a skip, on its condition. -/
theorem skipsMovePcByTwo : Obligations.SkipsMovePcByTwo := by
  unfold Obligations.SkipsMovePcByTwo
  intro s x y nn
  exact ⟨completes_skip (exec_skipEqImm x nn s) (by simp), completes_skip (exec_skipNeImm x nn s) (by simp),
    completes_skip (exec_skipEqReg x y s) (by simp), completes_skip (exec_skipNeReg x y s) (by simp)⟩

/-! ### The call stack -/

theorem exec_call_next (nnn : Addr12) {s : State} (h : s.sp.val < 16) : exec (.call nnn) s =
    .next ((s.setStack (s.stack.set s.sp.val s.pc) ⟨s.sp.val + 1, by omega⟩).setPc (addressOf nnn)) := by
  show orRaise s (push s s.pc) _ = _
  rw [push_ok s.pc h, orRaise_ok]

theorem exec_call_overflow (nnn : Addr12) {s : State} (h : s.sp.val = 16) :
    exec (.call nnn) s = .fault (.stepError .stackOverflow s) := by
  show orRaise s (push s s.pc) _ = _
  rw [push_error s.pc h, orRaise_error]

theorem exec_ret_next {s : State} (h : 0 < s.sp.val) : exec .ret s =
    .next ((s.setStack s.stack ⟨s.sp.val - 1, by omega⟩).setPc s.stack[s.sp.val - 1]) := by
  show orRaise s (pop s) _ = _
  rw [pop_ok h, orRaise_ok]

theorem exec_ret_underflow {s : State} (h : s.sp.val = 0) : exec .ret s = .fault (.stepError .stackUnderflow s) := by
  show orRaise s (pop s) _ = _
  rw [pop_error h, orRaise_error]

/-- Both `Call` and `Return` replace the stack and then `PC`. -/
theorem sameBut_setStack_setPc (s : State) (es : Vector Word 16) (n : Fin 17) (w : Word) :
    SameBut [.pc, .stack] s ((s.setStack es n).setPc w) :=
  (sameBut_setStack es n (by simp)).trans (sameBut_setPc w (by simp))

/-- Settles O29: the push comes before the jump, so an overflow prevents both. -/
theorem callPushesPcAndJumps : Obligations.CallPushesPcAndJumps := by
  unfold Obligations.CallPushesPcAndJumps
  intro s nnn
  refine ⟨fun h => ⟨_, exec_call_next nnn h, addressOf_toNat nnn, rfl, fun k => ?_, sameBut_setStack_setPc s _ _ _⟩,
    exec_call_overflow nnn⟩
  simp [Vector.getElem_set, eq_comm]

/-- Settles O30: the entry below the count is the one popped, and only the count moves. -/
theorem returnPopsIntoPc : Obligations.ReturnPopsIntoPc := by
  unfold Obligations.ReturnPopsIntoPc
  intro s
  refine ⟨fun h => ⟨_, exec_ret_next h, fun k hk => ?_, Nat.sub_add_cancel h, rfl, sameBut_setStack_setPc s _ _ _⟩,
    exec_ret_underflow⟩
  simp [← hk]

/-- Settles O31: the entry the `Call` pushed is the one the `Return` pops. -/
theorem returnResumesAfterCall : Obligations.ReturnResumesAfterCall := by
  unfold Obligations.ReturnResumesAfterCall
  intro s nnn h
  obtain ⟨t, ht, -, hsp, hslots, -⟩ := (callPushesPcAndJumps s nnn).1 h
  refine ⟨t, ht, fun v hstack hcount => ?_⟩
  obtain ⟨u, hu, hpop, husp, hustack, hframe⟩ := (returnPopsIntoPc v).1 (by omega)
  have hslot (k : Fin 16) : v.stack[k.val] = if k.val = s.sp.val then s.pc else s.stack[k.val] := by
    rw [hstack, hslots k]
  refine ⟨u, hu, ?_, Fin.ext (by omega), fun k hk => ?_, hframe⟩
  · rw [hpop ⟨s.sp.val, h⟩ (by rw [hcount, hsp]), hslot, if_pos rfl]
  · rw [hustack, hslot, if_neg hk]

/-- Pushing what fits puts the values above the old entries, in order. -/
theorem pushAll_ok (ws : List Word) (s : State) (h : s.sp.val + ws.length ≤ 16) :
    ∃ (es : Vector Word 16) (n : Fin 17), pushAll ws s = .ok (s.setStack es n) ∧ n.val = s.sp.val + ws.length ∧
      (∀ k (hk : k < s.sp.val), es[k] = s.stack[k]) ∧ ∀ k (hk : k < ws.length), es[s.sp.val + k] = ws[k] := by
  induction ws generalizing s with
  | nil => exact ⟨s.stack, s.sp, rfl, rfl, fun _ _ => rfl, fun k hk => absurd hk (Nat.not_lt_zero k)⟩
  | cons w ws ih =>
    rw [List.length_cons] at h
    have hpush := push_ok (s := s) w (by omega)
    obtain ⟨es, n, hall, hn, hold, hnew⟩ :=
      ih (s.setStack (s.stack.set s.sp.val w) ⟨s.sp.val + 1, by omega⟩) (by rw [State.setStack_sp]; dsimp only; omega)
    simp only [State.setStack_sp, State.setStack_stack] at hn hold hnew
    have hall' : pushAll (w :: ws) s = .ok (s.setStack es n) := by
      rw [pushAll, hpush]
      exact hall
    refine ⟨es, n, hall', by rw [hn, List.length_cons]; omega, fun k hk => ?_, fun k hk => ?_⟩
    · rw [hold k (by omega), Vector.getElem_set_ne _ _ (by omega)]
    · cases k with
      | zero => exact (hold s.sp.val (by omega)).trans (Vector.getElem_set_self _)
      | succ k =>
        rw [List.length_cons] at hk
        simpa [Nat.add_assoc, Nat.add_comm 1 k] using hnew k (by omega)

/-- Popping what is there gives the entries from the top down, and leaves every slot. -/
theorem popAll_ok (n : Nat) (s : State) (h : n ≤ s.sp.val) :
    ∃ (ws : List Word) (m : Fin 17), popAll n s = .ok (ws, s.setStack s.stack m) ∧ m.val + n = s.sp.val ∧
      ∃ hlen : ws.length = n, ∀ k (hk : k < n), ws[k] = s.stack[s.sp.val - 1 - k] := by
  induction n generalizing s with
  | zero => exact ⟨[], s.sp, rfl, rfl, rfl, fun k hk => absurd hk (Nat.not_lt_zero k)⟩
  | succ n ih =>
    have hpop := pop_ok (s := s) (by omega)
    obtain ⟨ws, m, hall, hm, hlen, hws⟩ :=
      ih (s.setStack s.stack ⟨s.sp.val - 1, by omega⟩) (by rw [State.setStack_sp]; dsimp only; omega)
    simp only [State.setStack_sp, State.setStack_stack] at hm hws hall
    have hall' : popAll (n + 1) s = .ok (s.stack[s.sp.val - 1] :: ws, s.setStack s.stack m) := by
      rw [popAll, hpop]
      simp only [hall]
      rfl
    refine ⟨_, m, hall', by omega, by rw [List.length_cons, hlen], fun k hk => ?_⟩
    cases k with
    | zero => rfl
    | succ k =>
      rw [List.getElem_cons_succ, hws k (by omega)]
      congr 1
      omega

/-- Settles O33: the values stand above the old entries in the order pushed, and are popped from the top. -/
theorem stackIsLastInFirstOut : Obligations.StackIsLastInFirstOut := by
  unfold Obligations.StackIsLastInFirstOut
  refine ⟨fun s ws h => ?_, fun s w => ⟨push_error w, pop_error⟩⟩
  obtain ⟨es, n, hpush, hn, -, hnew⟩ := pushAll_ok ws s h
  obtain ⟨vs, m, hpop, hm, hlen, hvs⟩ := popAll_ok ws.length (s.setStack es n) (by rw [State.setStack_sp]; omega)
  simp only [State.setStack_sp, State.setStack_stack] at hm hvs
  have hrev : vs = ws.reverse := by
    apply List.ext_getElem (by rw [hlen, List.length_reverse])
    intro k hk _
    rw [hlen] at hk
    rw [hvs k hk, List.getElem_reverse, ← hnew _ (by omega)]
    congr 1
    omega
  exact ⟨_, _, hpush, hn, hrev ▸ hpop, Fin.ext (by rw [State.setStack_sp]; omega),
    (sameBut_setStack es n (by simp)).trans (sameBut_setStack _ _ (by simp))⟩

/-! ### The index register -/

theorem exec_loadIndex (nnn : Addr12) (s : State) : exec (.loadIndex nnn) s = .next (s.setI (addressOf nnn)) := rfl

theorem exec_addIndex (x : RegIx) (s : State) : exec (.addIndex x) s = .next (s.setI (s.i + widened (s.getV x))) := rfl

theorem exec_loadFont_next {x : RegIx} {s : State} (h : (s.getV x).toNat ≤ 15) :
    exec (.loadFont x) s = .next (s.setI (BitVec.ofNat 16 (5 * (s.getV x).toNat))) := by
  have hglyph : glyphAddress (s.getV x) = .ok (BitVec.ofNat 16 (Config.fontBase + 5 * (s.getV x).toNat)) :=
    if_neg (Nat.not_lt.mpr h)
  show orRaise s (glyphAddress (s.getV x)) _ = _
  rw [hglyph, orRaise_ok, Nat.zero_add]

theorem exec_loadFont_invalidSprite {x : RegIx} {s : State} (h : 15 < (s.getV x).toNat) :
    exec (.loadFont x) s = .fault (.stepError (.invalidSprite (s.getV x)) s) := by
  have hglyph : glyphAddress (s.getV x) = .error (.invalidSprite (s.getV x)) := if_pos h
  show orRaise s (glyphAddress (s.getV x)) _ = _
  rw [hglyph, orRaise_error]

/-- A write of `I` changes `I` alone. -/
theorem sameBut_index (s : State) (w : Word) : SameBut [.index] s (s.setI w) :=
  sameBut_setI w (List.mem_singleton.mpr rfl)

/-- Settles O36: one write of `I` each, the sum wrapping as a 16-bit one. -/
theorem indexIsSetOrAddedTo : Obligations.IndexIsSetOrAddedTo := by
  unfold Obligations.IndexIsSetOrAddedTo
  intro s x nnn
  refine ⟨⟨_, exec_loadIndex nnn s, addressOf_toNat nnn, sameBut_index s _⟩,
    ⟨_, exec_addIndex x s, ?_, sameBut_index s _⟩⟩
  rw [State.setI_i, BitVec.toNat_add, widened_toNat]

/-- Settles O37: the digit is tested whole before the address is formed. -/
theorem loadFontGivesGlyphAddress : Obligations.LoadFontGivesGlyphAddress := by
  unfold Obligations.LoadFontGivesGlyphAddress
  intro s x
  refine ⟨fun h => ⟨_, exec_loadFont_next h, ?_, sameBut_index s _⟩, exec_loadFont_invalidSprite⟩
  rw [State.setI_i, BitVec.toNat_ofNat, Nat.mod_eq_of_lt (by omega)]

/-! ### Timers and keys -/

theorem exec_getDelay (x : RegIx) (s : State) : exec (.getDelay x) s = .next (s.setV x s.dt) := rfl

theorem exec_setDelay (x : RegIx) (s : State) : exec (.setDelay x) s = .next (s.setDt (s.getV x)) := rfl

theorem exec_setSound (x : RegIx) (s : State) : exec (.setSound x) s = .next (s.setSt (s.getV x)) := rfl

/-- Settles O48: one write each. -/
theorem timerInstructionsCopyOneByte : Obligations.TimerInstructionsCopyOneByte := by
  unfold Obligations.TimerInstructionsCopyOneByte
  intro s x
  exact ⟨⟨_, exec_getDelay x s, State.getV_setV_same s x s.dt, sameBut_setV x s.dt (List.mem_singleton.mpr rfl)⟩,
    ⟨_, exec_setDelay x s, rfl, sameBut_setDt (s.getV x) (List.mem_singleton.mpr rfl)⟩,
    ⟨_, exec_setSound x s, rfl, sameBut_setSt (s.getV x) (List.mem_singleton.mpr rfl)⟩⟩

theorem exec_skipKeyPressed_next {s : State} {r : Option Nibble} (x : RegIx) (h : readKey s = .ok r) :
    exec (.skipKeyPressed x) s = .next (skipIf (keyMatches s x r) s) := by
  show orRaise s (readKey s) _ = _
  rw [h, orRaise_ok]

theorem exec_skipKeyNotPressed_next {s : State} {r : Option Nibble} (x : RegIx) (h : readKey s = .ok r) :
    exec (.skipKeyNotPressed x) s = .next (skipIf (!keyMatches s x r) s) := by
  show orRaise s (readKey s) _ = _
  rw [h, orRaise_ok]

theorem exec_waitForKey_next {s : State} {r : Option Nibble} (x : RegIx) (h : readKey s = .ok r) :
    exec (.waitForKey x) s = .next (takeKey x s r) := by
  show orRaise s (readKey s) _ = _
  rw [h, orRaise_ok]

theorem takeKey_none (x : RegIx) (s : State) : takeKey x s none = s.setPc (s.pc - 2) := rfl

theorem readKey_none {s : State} (h : s.key = .none) : readKey s = .ok none := by rw [readKey, h]

theorem readKey_key {s : State} {k : Nibble} (h : s.key = .key k) : readKey s = .ok (some k) := by rw [readKey, h]

theorem readKey_invalid {s : State} (h : s.key = .invalid) : readKey s = .error .invalidKey := by rw [readKey, h]

/-! R236: with an invalid latch each key instruction raises before it changes anything. -/

theorem exec_skipKeyPressed_invalid {s : State} (x : RegIx) (h : s.key = .invalid) :
    exec (.skipKeyPressed x) s = .fault (.stepError .invalidKey s) := by
  show orRaise s (readKey s) _ = _
  rw [readKey_invalid h, orRaise_error]

theorem exec_skipKeyNotPressed_invalid {s : State} (x : RegIx) (h : s.key = .invalid) :
    exec (.skipKeyNotPressed x) s = .fault (.stepError .invalidKey s) := by
  show orRaise s (readKey s) _ = _
  rw [readKey_invalid h, orRaise_error]

theorem exec_waitForKey_invalid {s : State} (x : RegIx) (h : s.key = .invalid) :
    exec (.waitForKey x) s = .fault (.stepError .invalidKey s) := by
  show orRaise s (readKey s) _ = _
  rw [readKey_invalid h, orRaise_error]

@[simp] theorem keyByte_toNat (k : Nibble) : (keyByte k).toNat = k.toNat := BitVec.toNat_setWidth_of_le (by decide)

/-- A valid latch reads as a key or none, and matches when it is the key whose number `Vx` holds. -/
theorem readKey_valid {s : State} (h : s.key ≠ .invalid) : ∃ r, readKey s = .ok r ∧ ∀ x,
    (keyMatches s x r = true ↔ ∃ k : Nibble, s.key = .key k ∧ k.toNat = (s.getV x).toNat) := by
  rcases readKey_cases s with ⟨hkey, hread⟩ | ⟨k, hkey, hread⟩ | ⟨hkey, -⟩
  · exact ⟨none, hread, fun x => by simp [keyMatches, hkey]⟩
  · refine ⟨some k, hread, fun x => ?_⟩
    have hbyte : keyByte k = s.getV x ↔ k.toNat = (s.getV x).toNat := by rw [← BitVec.toNat_inj, keyByte_toNat]
    simp [keyMatches, hkey, hbyte]
  · exact absurd hkey h

/-- Settles O49: the latch, read once, decides both skips, in opposite senses. -/
theorem keySkipsCompareTheLatch : Obligations.KeySkipsCompareTheLatch := by
  unfold Obligations.KeySkipsCompareTheLatch
  intro s x
  refine ⟨fun hvalid => ?_, fun h => ⟨exec_skipKeyPressed_invalid x h, exec_skipKeyNotPressed_invalid x h⟩⟩
  obtain ⟨r, hread, hmatch⟩ := readKey_valid hvalid
  have hframe (c : Bool) : SameBut [.pc] s (skipIf c s) := sameBut_skipIf c (List.mem_singleton.mpr rfl)
  have hskip : (skipIf true s).pc.toNat = (s.pc.toNat + 2) % 65536 := skipIf_pc_toNat true s
  rw [← hmatch x]
  refine ⟨⟨_, exec_skipKeyPressed_next x hread, ?_, ?_, hframe _⟩,
    ⟨_, exec_skipKeyNotPressed_next x hread, ?_, ?_, hframe _⟩⟩
  all_goals intro hm
  · rw [hm, hskip]
  · rw [Bool.eq_false_of_not_eq_true hm]
    rfl
  · rw [hm]
    rfl
  · rw [Bool.eq_false_of_not_eq_true hm]
    exact hskip

/-- Settles O50: the latch, read once, decides between `PC` and `Vx`. -/
theorem waitForKeyWaitsOrTakesTheKey : Obligations.WaitForKeyWaitsOrTakesTheKey := by
  unfold Obligations.WaitForKeyWaitsOrTakesTheKey
  intro s x
  refine ⟨fun h => ⟨_, exec_waitForKey_next x (readKey_none h), ?_, sameBut_setPc _ (List.mem_singleton.mpr rfl)⟩,
    fun k h => ⟨_, exec_waitForKey_next x (readKey_key h), ?_, sameBut_setV x _ (List.mem_singleton.mpr rfl)⟩,
    exec_waitForKey_invalid x⟩
  · have hpc : s.pc.toNat < 2 ^ 16 := s.pc.isLt
    have hback : (s.pc - 2#16 + 2#16).toNat = s.pc.toNat := by rw [BitVec.sub_add_cancel]
    rwa [BitVec.toNat_add] at hback
  · rw [takeKey, State.getV_setV_same, keyByte_toNat]

end Sys2Proof.Machine
end

section
/-! The display (`44_display.md`). A pixel lies some rows below and some columns to the right of where a sprite starts, going
round at the edges; that byte and that bit of the sprite decide it. -/

namespace Sys2Proof.Machine

/-! ### Where a pixel lies in a sprite -/

/-- How many rows below `row` the row `r` lies, going round. -/
def rowsDown (row : Nat) (r : Fin 32) : Nat := (r.val + 32 - row % 32) % 32

/-- How many columns to the right of `col` the column `c` lies, going round. -/
def colsRight (col : Nat) (c : Fin 64) : Nat := (c.val + 64 - col % 64) % 64

/-- The sprite's bit at a pixel: a sprite has 1 bits neither below its last byte nor beyond its eight columns. -/
def spriteBitAt (row col : Nat) (sprite : List Byte) (r : Fin 32) (c : Fin 64) : Bool :=
  (sprite.getD (rowsDown row r) 0).getMsbD (colsRight col c)

theorem add_mod_eq_row_iff {row k : Nat} {r : Fin 32} (hk : k < 32) : (row + k) % 32 = r.val ↔ rowsDown row r = k := by
  unfold rowsDown
  omega

theorem add_mod_eq_col_iff {col k : Nat} {c : Fin 64} (hk : k < 64) : (col + k) % 64 = c.val ↔ colsRight col c = k := by
  unfold colsRight
  omega

theorem eq_rowOf_iff {row : Nat} {r : Fin 32} : r = rowOf row ↔ rowsDown row r = 0 := by
  rw [← add_mod_eq_row_iff (by decide), Fin.ext_iff, rowOf_val, Nat.add_zero, eq_comm]

theorem eq_colOf_iff {col k : Nat} {c : Fin 64} (hk : k < 64) : c = colOf (col + k) ↔ colsRight col c = k := by
  rw [← add_mod_eq_col_iff hk, Fin.ext_iff, colOf_val, eq_comm]

/-- The closed form of the statements is the bit at the pixel's place. -/
theorem spriteCovers_eq (row col : Nat) {sprite : List Byte} (h : sprite.length ≤ 32) (r : Fin 32) (c : Fin 64) :
    spriteCovers row col sprite r c = spriteBitAt row col sprite r c := by
  rw [Bool.eq_iff_iff]
  simp only [spriteCovers, spriteBitAt, List.any_eq_true, List.mem_range, Bool.and_eq_true, decide_eq_true_eq]
  constructor
  · rintro ⟨k, hk, b, hb, ⟨hr, hc⟩, hbit⟩
    rw [add_mod_eq_row_iff (by omega)] at hr
    rw [add_mod_eq_col_iff (by omega)] at hc
    rw [hr, hc, BitVec.getMsbD_eq_getLsbD, hbit, decide_eq_true hb, Bool.and_self]
  · intro hbit
    have hb : colsRight col c < 8 := BitVec.lt_of_getMsbD hbit
    have hk : rowsDown row r < sprite.length := by
      by_contra hk
      rw [List.getD_eq_default _ _ (by omega)] at hbit
      simp at hbit
    rw [BitVec.getMsbD_eq_getLsbD, decide_eq_true hb, Bool.true_and] at hbit
    exact ⟨_, hk, _, hb, ⟨(add_mod_eq_row_iff (by omega)).mpr rfl, (add_mod_eq_col_iff (by omega)).mpr rfl⟩, hbit⟩

/-! ### An erasure already reported -/

/-- A composed pair with an earlier erasure added. -/
def withErased (e : Bool) (p : Frame × Bool) : Frame × Bool := (p.1, e || p.2)

theorem composeBit_withErased (r : Fin 32) (col : Nat) (sprite : Byte) (e : Bool) (p : Frame × Bool) (b : Nat) :
    composeBit r col sprite (withErased e p) b = withErased e (composeBit r col sprite p b) := by
  unfold composeBit
  split
  · simp [withErased, Bool.or_assoc]
  · rfl

theorem composeByte_withErased (r : Fin 32) (col : Nat) (sprite : Byte) (e : Bool) (p : Frame × Bool) :
    composeByte r col sprite (withErased e p) = withErased e (composeByte r col sprite p) :=
  List.foldl_hom (withErased e) fun p b => composeBit_withErased r col sprite e p b

theorem composeRows_withErased (row col : Nat) (sprite : List Byte) (e : Bool) (p : Frame × Bool) :
    composeRows row col sprite (withErased e p) = withErased e (composeRows row col sprite p) := by
  induction sprite generalizing row p with
  | nil => rfl
  | cons b bs ih => rw [composeRows_cons, composeRows_cons, composeByte_withErased, ih]

/-- A sprite is its first byte and then the rest, one row down (R210). -/
theorem compose_cons (f : Frame) (row col : Nat) (b : Byte) (bs : List Byte) :
    compose f row col (b :: bs) =
      withErased (compose f row col [b]).2 (compose (compose f row col [b]).1 (row + 1) col bs) := by
  have hfirst : compose f row col [b] = composeByte (rowOf row) col b (f, false) := rfl
  rw [hfirst, compose, compose, composeRows_cons, ← composeRows_withErased, withErased, Bool.or_false]

/-! ### What composing does to a pixel -/

/-- Does one of the first `n` bits of a sprite byte fall on a column, and is it 1? -/
def firstBitsAt (n col : Nat) (sprite : Byte) (c : Fin 64) : Bool :=
  decide (colsRight col c < n) && spriteBit sprite (colsRight col c)

/-- The next bit falls on a column that none of the earlier ones falls on. -/
theorem firstBitsAt_succ (n col : Nat) (sprite : Byte) (c : Fin 64) :
    firstBitsAt (n + 1) col sprite c = if colsRight col c = n then spriteBit sprite n else firstBitsAt n col sprite c := by
  unfold firstBitsAt
  split
  · next h => simp [h]
  · next h =>
      have hlt : colsRight col c < n + 1 ↔ colsRight col c < n := by omega
      simp only [hlt]

theorem firstBitsAt_of_colsRight_eq {n col : Nat} {c : Fin 64} (sprite : Byte) (h : colsRight col c = n) :
    firstBitsAt n col sprite c = false := by simp [firstBitsAt, h]

theorem firstBitsAt_eight (col : Nat) (sprite : Byte) (c : Fin 64) :
    firstBitsAt 8 col sprite c = sprite.getMsbD (colsRight col c) := rfl

theorem composeBits_succ (r : Fin 32) (col : Nat) (sprite : Byte) (p : Frame × Bool) (n : Nat) :
    (List.range (n + 1)).foldl (composeBit r col sprite) p =
      composeBit r col sprite ((List.range n).foldl (composeBit r col sprite) p) n := by
  rw [List.range_succ, List.foldl_append, List.foldl_cons, List.foldl_nil]

/-- The first `n` bits of a sprite byte flip the pixels their 1 bits fall on. -/
theorem pixel_composeBits (f : Frame) (r r' : Fin 32) (col : Nat) (sprite : Byte) (c : Fin 64) {n : Nat} (hn : n ≤ 8) :
    pixel ((List.range n).foldl (composeBit r col sprite) (f, false)).1 r' c =
      (pixel f r' c ^^ (decide (r' = r) && firstBitsAt n col sprite c)) := by
  induction n with
  | zero => simp [firstBitsAt]
  | succ n ih =>
    have hcol : c = colOf (col + n) ↔ colsRight col c = n := eq_colOf_iff (by omega)
    rw [composeBits_succ, firstBitsAt_succ]
    rcases composeBit_cases r col sprite ((List.range n).foldl (composeBit r col sprite) (f, false)) n
      with ⟨hbit, hp⟩ | ⟨hbit, hp⟩ <;> rw [hp]
    · rw [ih (by omega)]
      by_cases hc : colsRight col c = n
      · simp [hc, hbit, firstBitsAt_of_colsRight_eq sprite hc]
      · simp [hc]
    · rw [pixel_flipPixel, ih (by omega)]
      by_cases hc : colsRight col c = n
      · simp [hc, hcol, hbit, firstBitsAt_of_colsRight_eq sprite hc]
      · simp [hc, hcol]

/-- The first `n` bits of a sprite byte erase when a 1 bit falls on a pixel that was set. -/
theorem composeBits_erased_iff (f : Frame) (r : Fin 32) (col : Nat) (sprite : Byte) {n : Nat} (hn : n ≤ 8) :
    ((List.range n).foldl (composeBit r col sprite) (f, false)).2 = true ↔
      ∃ c, pixel f r c = true ∧ firstBitsAt n col sprite c = true := by
  induction n with
  | zero => simp [firstBitsAt]
  | succ n ih =>
    have hcol {c : Fin 64} : c = colOf (col + n) ↔ colsRight col c = n := eq_colOf_iff (by omega)
    have hpix := pixel_composeBits f r r col sprite (colOf (col + n)) (show n ≤ 8 by omega)
    rw [firstBitsAt_of_colsRight_eq sprite (hcol.mp rfl), Bool.and_false, Bool.xor_false] at hpix
    rw [composeBits_succ]
    rcases composeBit_cases r col sprite ((List.range n).foldl (composeBit r col sprite) (f, false)) n
      with ⟨hbit, hp⟩ | ⟨hbit, hp⟩ <;> rw [hp]
    · rw [ih (by omega)]
      refine exists_congr fun c => and_congr_right fun _ => ?_
      rw [firstBitsAt_succ]
      split
      · next hc => simp [hbit, firstBitsAt_of_colsRight_eq sprite hc]
      · rfl
    · rw [Bool.or_eq_true, ih (by omega), hpix]
      constructor
      · rintro (⟨c, hset, hc⟩ | hset)
        · have hne : colsRight col c ≠ n := fun heq => by simp [firstBitsAt_of_colsRight_eq sprite heq] at hc
          exact ⟨c, hset, by rw [firstBitsAt_succ, if_neg hne, hc]⟩
        · exact ⟨_, hset, by rw [firstBitsAt_succ, if_pos (hcol.mp rfl), hbit]⟩
      · rintro ⟨c, hset, hc⟩
        rw [firstBitsAt_succ] at hc
        split at hc
        · next heq => exact .inr (hcol.mpr heq ▸ hset)
        · exact .inl ⟨c, hset, hc⟩

/-- One sprite byte flips the pixels of its row that its 1 bits fall on. -/
theorem pixel_compose_byte (f : Frame) (row col : Nat) (b : Byte) (r : Fin 32) (c : Fin 64) :
    pixel (compose f row col [b]).1 r c =
      (pixel f r c ^^ (decide (rowsDown row r = 0) && b.getMsbD (colsRight col c))) := by
  have h := pixel_composeBits f (rowOf row) r col b c (show 8 ≤ 8 by decide)
  simp only [eq_rowOf_iff, firstBitsAt_eight] at h
  exact h

/-- One sprite byte erases when a 1 bit of it falls on a set pixel of its row. -/
theorem compose_byte_erased_iff (f : Frame) (row col : Nat) (b : Byte) :
    (compose f row col [b]).2 = true ↔ ∃ c, pixel f (rowOf row) c = true ∧ b.getMsbD (colsRight col c) = true :=
  composeBits_erased_iff f (rowOf row) col b (show 8 ≤ 8 by decide)

/-! ### The bytes of a sprite lie in rows of their own -/

theorem spriteBitAt_cons_first {row : Nat} {r : Fin 32} (h : rowsDown row r = 0) (col : Nat) (b : Byte)
    (bs : List Byte) (c : Fin 64) : spriteBitAt row col (b :: bs) r c = b.getMsbD (colsRight col c) := by
  rw [spriteBitAt, h, List.getD_cons_zero]

theorem spriteBitAt_cons_rest {row : Nat} {r : Fin 32} (h : rowsDown row r ≠ 0) (col : Nat) (b : Byte)
    (bs : List Byte) (c : Fin 64) : spriteBitAt row col (b :: bs) r c = spriteBitAt (row + 1) col bs r c := by
  have hdown : rowsDown row r = rowsDown (row + 1) r + 1 := by
    unfold rowsDown at h ⊢
    omega
  rw [spriteBitAt, hdown, List.getD_cons_succ, spriteBitAt]

/-- A sprite of fewer than 32 rows does not come round to the row above it. -/
theorem spriteBitAt_row_above {row : Nat} {r : Fin 32} (h : rowsDown row r = 0) (col : Nat) {bs : List Byte}
    (hlen : bs.length < 32) (c : Fin 64) : spriteBitAt (row + 1) col bs r c = false := by
  have hdown : rowsDown (row + 1) r = 31 := by
    unfold rowsDown at h ⊢
    omega
  rw [spriteBitAt, hdown, List.getD_eq_default _ _ (by omega)]
  exact BitVec.getMsbD_zero

/-- A sprite flips exactly the pixels its 1 bits fall on. -/
theorem pixel_compose (f : Frame) (row col : Nat) {sprite : List Byte} (h : sprite.length ≤ 32) (r : Fin 32) (c : Fin 64) :
    pixel (compose f row col sprite).1 r c = (pixel f r c ^^ spriteBitAt row col sprite r c) := by
  induction sprite generalizing f row with
  | nil => simp [compose, spriteBitAt]
  | cons b bs ih =>
    rw [List.length_cons] at h
    have hpix : pixel (compose f row col (b :: bs)).1 r c = _ :=
      (congrArg (fun p => pixel p.1 r c) (compose_cons f row col b bs)).trans (ih _ (row + 1) (by omega))
    rw [hpix, pixel_compose_byte]
    by_cases h0 : rowsDown row r = 0
    · simp [h0, spriteBitAt_cons_first h0, spriteBitAt_row_above h0 col (show bs.length < 32 by omega)]
    · simp [h0, spriteBitAt_cons_rest h0]

/-- A sprite erases exactly when a 1 bit of it falls on a set pixel. -/
theorem compose_erased_iff (f : Frame) (row col : Nat) {sprite : List Byte} (h : sprite.length ≤ 32) :
    (compose f row col sprite).2 = true ↔ ∃ r c, pixel f r c = true ∧ spriteBitAt row col sprite r c = true := by
  induction sprite generalizing f row with
  | nil => simp [compose, spriteBitAt]
  | cons b bs ih =>
    rw [List.length_cons] at h
    rw [compose_cons, withErased, Bool.or_eq_true, compose_byte_erased_iff, ih _ (row + 1) (by omega)]
    have hrow : rowsDown row (rowOf row) = 0 := eq_rowOf_iff.mp rfl
    constructor
    · rintro (⟨c, hset, hc⟩ | ⟨r, c, hset, hc⟩)
      · exact ⟨_, c, hset, by rw [spriteBitAt_cons_first hrow, hc]⟩
      · have h0 : rowsDown row r ≠ 0 := fun h0 => by simp [spriteBitAt_row_above h0 col (show bs.length < 32 by omega)] at hc
        rw [pixel_compose_byte, decide_eq_false h0, Bool.false_and, Bool.xor_false] at hset
        exact ⟨r, c, hset, by rw [spriteBitAt_cons_rest h0, hc]⟩
    · rintro ⟨r, c, hset, hc⟩
      by_cases h0 : rowsDown row r = 0
      · rw [spriteBitAt_cons_first h0] at hc
        exact .inl ⟨c, eq_rowOf_iff.mpr h0 ▸ hset, hc⟩
      · rw [spriteBitAt_cons_rest h0] at hc
        exact .inr ⟨r, c, by simp [pixel_compose_byte, h0, hset], hc⟩

/-- Settles O44: a set pixel that is flipped is one that was erased. -/
theorem composeFlipsTheCoveredPixels : Obligations.ComposeFlipsTheCoveredPixels := by
  unfold Obligations.ComposeFlipsTheCoveredPixels
  intro f row col sprite hlen
  have h32 : sprite.length ≤ 32 := by omega
  refine ⟨fun r c => by rw [pixel_compose f row col h32, spriteCovers_eq row col h32], ?_⟩
  rw [compose_erased_iff f row col h32]
  refine exists_congr fun r => exists_congr fun c => and_congr_right fun hset => ?_
  rw [pixel_compose f row col h32, hset, Bool.true_xor, Bool.not_eq_false']

/-! ### Composing twice -/

/-- Composing the same sprite again flips the same pixels back. -/
theorem compose_compose_frame (f : Frame) (row col : Nat) {sprite : List Byte} (h : sprite.length ≤ 32) :
    (compose (compose f row col sprite).1 row col sprite).1 = f :=
  frame_ext fun r c => by rw [pixel_compose _ row col h, pixel_compose f row col h, Bool.xor_assoc, Bool.xor_self, Bool.xor_false]

/-- A sprite with a 1 bit covers a pixel. -/
theorem exists_spriteBitAt (row col : Nat) {sprite : List Byte} (h : sprite.length ≤ 32) (hb : ∃ b ∈ sprite, b ≠ 0) :
    ∃ r c, spriteBitAt row col sprite r c = true := by
  obtain ⟨b, hmem, hne⟩ := hb
  obtain ⟨k, hk, rfl⟩ := List.mem_iff_getElem.mp hmem
  obtain ⟨j, hj⟩ : ∃ j, sprite[k].getMsbD j = true := by
    by_contra hno
    exact hne (BitVec.eq_of_getMsbD_eq fun j _ => by simpa using fun hj => hno ⟨j, hj⟩)
  have hj8 : j < 8 := BitVec.lt_of_getMsbD hj
  refine ⟨rowOf (row + k), colOf (col + j), ?_⟩
  have hrow : rowsDown row (rowOf (row + k)) = k := (add_mod_eq_row_iff (by omega)).mp rfl
  have hcol : colsRight col (colOf (col + j)) = j := (eq_colOf_iff (by omega)).mp rfl
  rw [spriteBitAt, hrow, hcol, List.getD_eq_getElem _ _ hk, hj]

/-- R214 (c): where a sprite starts counts modulo the size of the display. -/
theorem spriteBitAt_mod (row col : Nat) (sprite : List Byte) (r : Fin 32) (c : Fin 64) :
    spriteBitAt (row % 32) (col % 64) sprite r c = spriteBitAt row col sprite r c := by
  simp [spriteBitAt, rowsDown, colsRight]

/-- Settles O45: the pixels of the sprite are set after the first time when they were clear before it. -/
theorem composingTwiceErases : Obligations.ComposingTwiceErases := by
  unfold Obligations.ComposingTwiceErases
  intro f row col sprite hlen
  have h32 : sprite.length ≤ 32 := by omega
  refine ⟨compose_compose_frame f row col h32, fun hb hfirst => ?_, Prod.ext ?_ ?_, rfl⟩
  · obtain ⟨r, c, hc⟩ := exists_spriteBitAt row col h32 hb
    have hclear : pixel f r c = false := by
      by_contra hset
      have herased := (compose_erased_iff f row col h32).mpr ⟨r, c, by simpa using hset, hc⟩
      simp [hfirst] at herased
    exact (compose_erased_iff _ row col h32).mpr ⟨r, c, by rw [pixel_compose f row col h32, hclear, hc]; rfl, hc⟩
  · exact frame_ext fun r c => by rw [pixel_compose _ _ _ h32, pixel_compose _ _ _ h32, spriteBitAt_mod]
  · rw [Bool.eq_iff_iff, compose_erased_iff _ _ _ h32, compose_erased_iff _ _ _ h32]
    simp only [spriteBitAt_mod]

/-! ### The byte-level form -/

/-- Bit `k` from the left of a storage byte is the pixel of its column (R28). -/
theorem getMsbD_packedByte (f : Frame) (r : Fin 32) (j : Fin 8) {k : Nat} (hk : k < 8) :
    (packedByte f r j).getMsbD k = pixel f r ⟨8 * j.val + k, by omega⟩ := by
  have hj : 8 * j.val + k < 64 := by omega
  have hk7 : 8 - 1 - k < 8 := by omega
  have hpos : 56 - 8 * j.val + (8 - 1 - k) = 64 - 1 - (8 * j.val + k) := by omega
  simp only [packedByte, pixel, BitVec.getMsbD_eq_getLsbD, BitVec.getLsbD_extractLsb', hk, hj, hk7, hpos,
    decide_true, Bool.true_and]

/-- What a sprite byte does to a storage byte, as a mask: its bits at the storage byte's columns. -/
def IsPart (col : Nat) (b : Byte) (j : Fin 8) (m : Byte) : Prop :=
  ∀ k (hk : k < 8), b.getMsbD (colsRight col ⟨8 * j.val + k, by omega⟩) = m.getMsbD k

/-- The high part, on the storage byte the column lies in. -/
theorem isPart_high {col shift : Nat} {j : Fin 8} (b : Byte) (hshift : shift = col % 64 % 8) (hj : j.val = col % 64 / 8) :
    IsPart col b j (b >>> shift) := by
  intro k hk
  rw [BitVec.getMsbD_ushiftRight]
  by_cases hks : k < shift
  · rw [BitVec.getMsbD_of_ge _ _ (by unfold colsRight; dsimp only; omega)]
    simp [hks]
  · have hcol : colsRight col ⟨8 * j.val + k, by omega⟩ = k - shift := by
      unfold colsRight
      dsimp only
      omega
    simp [hcol, hks, hk]

/-- The low part, on the next storage byte of the row. -/
theorem isPart_low {col shift : Nat} {j0 j1 : Fin 8} (b : Byte) (hshift : shift = col % 64 % 8)
    (hj0 : j0.val = col % 64 / 8) (hj1 : j1.val = (j0.val + 1) % 8) : IsPart col b j1 (b <<< (8 - shift)) := by
  intro k hk
  have hcol : colsRight col ⟨8 * j1.val + k, by omega⟩ = k + (8 - shift) := by
    unfold colsRight
    dsimp only
    omega
  rw [hcol, BitVec.getMsbD_shiftLeft]

/-- Nothing, on every other storage byte of the row. -/
theorem isPart_other {col : Nat} {j0 j1 j : Fin 8} (b : Byte) (hj0 : j0.val = col % 64 / 8)
    (hj1 : j1.val = (j0.val + 1) % 8) (h0 : j ≠ j0) (h1 : j ≠ j1) : IsPart col b j 0 := by
  intro k hk
  have hn0 : j.val ≠ j0.val := Fin.val_ne_of_ne h0
  have hn1 : j.val ≠ j1.val := Fin.val_ne_of_ne h1
  rw [BitVec.getMsbD_of_ge _ _ (by unfold colsRight; dsimp only; omega)]
  exact BitVec.getMsbD_zero.symm

theorem packedByte_compose_row {col row : Nat} {b m : Byte} {j : Fin 8} {r : Fin 32} (f : Frame) (hm : IsPart col b j m)
    (hr : rowsDown row r = 0) : packedByte (compose f row col [b]).1 r j = packedByte f r j ^^^ m := by
  apply BitVec.eq_of_getMsbD_eq
  intro k hk
  rw [BitVec.getMsbD_xor, getMsbD_packedByte _ _ _ hk, getMsbD_packedByte _ _ _ hk, pixel_compose_byte, hm k hk,
    decide_eq_true hr, Bool.true_and]

theorem packedByte_compose_other_row {col row : Nat} {b : Byte} {r : Fin 32} (f : Frame) (j : Fin 8)
    (hr : rowsDown row r ≠ 0) : packedByte (compose f row col [b]).1 r j = packedByte f r j := by
  apply BitVec.eq_of_getMsbD_eq
  intro k hk
  rw [getMsbD_packedByte _ _ _ hk, getMsbD_packedByte _ _ _ hk, pixel_compose_byte, decide_eq_false hr, Bool.false_and,
    Bool.xor_false]

/-- A storage byte meets a part of a sprite byte when one of its pixels is set under a 1 bit. -/
theorem packedByte_and_ne_zero_iff {col : Nat} {b m : Byte} {j : Fin 8} (f : Frame) (r : Fin 32) (hm : IsPart col b j m) :
    packedByte f r j &&& m ≠ 0 ↔
      ∃ c : Fin 64, c.val / 8 = j.val ∧ pixel f r c = true ∧ b.getMsbD (colsRight col c) = true := by
  have hbit (k : Nat) (hk : k < 8) : (packedByte f r j &&& m).getMsbD k =
      (pixel f r ⟨8 * j.val + k, by omega⟩ && b.getMsbD (colsRight col ⟨8 * j.val + k, by omega⟩)) := by
    rw [BitVec.getMsbD_and, getMsbD_packedByte f r j hk, hm k hk]
  constructor
  · intro hne
    by_contra hno
    refine hne (BitVec.eq_of_getMsbD_eq fun k hk => ?_)
    refine (hbit k hk).trans (Eq.trans ?_ BitVec.getMsbD_zero.symm)
    rw [← Bool.not_eq_true, Bool.and_eq_true]
    exact fun h => hno ⟨_, by dsimp only; omega, h⟩
  · rintro ⟨c, hc, hset, hbc⟩ hzero
    have hcol : (⟨8 * j.val + c.val % 8, by omega⟩ : Fin 64) = c := Fin.ext (by dsimp only; omega)
    have h := hbit (c.val % 8) (Nat.mod_lt _ (by decide))
    rw [hcol, hset, hbc, hzero] at h
    simp at h

/-- Settles O46: each part of the sprite byte is its bits at the columns of one storage byte, and a sprite is composed byte
by byte. -/
theorem composeAgreesWithItsByteForm : Obligations.ComposeAgreesWithItsByteForm := by
  unfold Obligations.ComposeAgreesWithItsByteForm
  intro f row col b rest r j0 j1 shift m0 m1 hr hshift hj0 hj1 hm0 hm1
  have hrow : r = rowOf row := Fin.ext hr
  have hdown : rowsDown row r = 0 := eq_rowOf_iff.mp hrow
  have hhigh : IsPart col b j0 m0 := hm0 ▸ isPart_high b hshift hj0
  have hlow : IsPart col b j1 m1 := by
    have hshifted : m1 = b <<< (8 - shift) := by
      rw [hm1]
      split
      · next h0 => rw [h0]; exact (BitVec.shiftLeft_eq_zero (Nat.le_refl 8)).symm
      · rfl
    exact hshifted ▸ isPart_low b hshift hj0 hj1
  refine ⟨packedByte_compose_row f hhigh hdown, packedByte_compose_row f hlow hdown, fun r' j hother => ?_, ?_, ?_, ?_⟩
  · by_cases hr' : rowsDown row r' = 0
    · have hj := hother.resolve_left (fun hne => hne ((eq_rowOf_iff.mpr hr').trans hrow.symm))
      rw [packedByte_compose_row f (isPart_other b hj0 hj1 hj.1 hj.2) hr']
      exact BitVec.xor_zero
    · exact packedByte_compose_other_row f j hr'
  · rw [compose_byte_erased_iff, packedByte_and_ne_zero_iff f r hhigh, packedByte_and_ne_zero_iff f r hlow, ← hrow]
    constructor
    · rintro ⟨c, hset, hc⟩
      have hnear : colsRight col c < 8 := BitVec.lt_of_getMsbD hc
      have hbyte : c.val / 8 = j0.val ∨ c.val / 8 = j1.val := by
        unfold colsRight at hnear
        omega
      exact hbyte.imp (fun h => ⟨c, h, hset, hc⟩) (fun h => ⟨c, h, hset, hc⟩)
    · rintro (⟨c, -, h⟩ | ⟨c, -, h⟩) <;> exact ⟨c, h⟩
  · rw [compose_cons, withErased]
  · rw [compose_cons, withErased]

/-! ### Draw -/

/-- R213: `Draw` composes the bytes it read at `I` and then writes the collision flag. -/
theorem exec_draw_next {s : State} (x y : RegIx) {n : Nibble} {sprite : List Byte}
    (h : readBytes s s.i.toNat n.toNat = .ok sprite) : exec (.draw x y n) s =
    .next ((s.setFb (compose s.fb (s.getV y).toNat (s.getV x).toNat sprite).1).setV vf
      (flagOf (compose s.fb (s.getV y).toNat (s.getV x).toNat sprite).2)) := by
  have hread : readBytes s (effectiveAddress s 0) n.toNat = .ok sprite := h
  show execDraw x y n s = _
  rw [execDraw, hread, orRaise_ok]

theorem flagOf_eq_one_iff (b : Bool) : flagOf b = 1 ↔ b = true := by cases b <;> decide

/-- Settles O47: the reads fit, the composer does the rest, and `VF` is its report of an erasure. -/
theorem drawComposesTheSpriteAtI : Obligations.DrawComposesTheSpriteAtI := by
  unfold Obligations.DrawComposesTheSpriteAtI
  intro s x y n hfit
  have hn : n.toNat < 2 ^ 4 := n.isLt
  have hfit' : n.toNat = 0 ∨ s.i.toNat + n.toNat ≤ Config.memSize := hfit.imp_left (by rintro rfl; rfl)
  have hread := readBytes_ok n.toNat s.i.toNat s hfit'
  have hlen : ((List.range n.toNat).map fun k => s.mem.byteAt (s.i.toNat + k)).length = n.toNat := by simp
  refine ⟨_, exec_draw_next x y hread, _, hlen, fun k hk => ?_, fun r c => ?_, ?_, ?_, ?_⟩
  · rw [memRead_ok (by omega), List.getElem_map, List.getElem_range]
  · exact (composeFlipsTheCoveredPixels s.fb _ _ _ (by omega)).1 r c
  · rw [State.getV_setV_same]
    exact flagOf_cases _
  · rw [State.getV_setV_same, flagOf_eq_one_iff]
    exact (composeFlipsTheCoveredPixels s.fb _ _ _ (by omega)).2
  · exact (sameBut_setFb _ (by simp)).trans (sameBut_setV vf _ (by simp))

end Sys2Proof.Machine
end

section
/-! Rules of the whole machine (`10_state.md` R22 to R31, `60_exceptions.md` R251, R255): once for every instruction, what it
changes when it completes and when it raises, and what it may raise. -/

namespace Sys2Proof.Machine

/-! ### What holds of an answer -/

/-- A transaction that completes leaves a state of which `N` holds, one that raises an error and a state of which `F`
holds, and none is refused. -/
def Answers (N : State → Prop) (F : Error → State → Prop) : StepResult → Prop
  | .next t => N t
  | .fault (.stepError e left) => F e left
  | .refused _ => False

section
variable {N : State → Prop} {F : Error → State → Prop} {r : StepResult}

theorem Answers.of_next {t : State} (h : Answers N F r) (hr : r = .next t) : N t := by rwa [hr] at h

theorem Answers.of_fault {e : Error} {left : State} (h : Answers N F r) (hr : r = .fault (.stepError e left)) :
    F e left := by rwa [hr] at h

theorem Answers.not_refused (h : Answers N F r) (c : Refusal) : r ≠ .refused c := by
  rintro rfl
  exact h

theorem Answers.imp {N' : State → Prop} {F' : Error → State → Prop} (h : Answers N F r) (hN : ∀ t, N t → N' t)
    (hF : ∀ e t, F e t → F' e t) : Answers N' F' r := by
  match r, h with
  | .next t, h => exact hN t h
  | .fault (.stepError e t), h => exact hF e t h

/-- Going on with a primitive's answer: its error is raised in the state so far. -/
theorem Answers.orRaise {α : Type} {s : State} {p : Except Error α} {k : α → StepResult}
    (herr : ∀ e, p = .error e → F e s) (hok : ∀ a, p = .ok a → Answers N F (k a)) : Answers N F (orRaise s p k) := by
  cases p with
  | ok a => exact hok a rfl
  | error e => exact herr e rfl

end

/-! ### Block transfers -/

/-- An address at or above the end, the only error of a memory access (R61, R62, R251). -/
def IsOutOfBounds (e : Error) : Prop := ∃ a, Config.memSize ≤ a ∧ e = .addressOutOfBounds a

theorem isOutOfBounds_max (a : Nat) : IsOutOfBounds (.addressOutOfBounds (max a Config.memSize)) :=
  ⟨_, Nat.le_max_right a Config.memSize, rfl⟩

/-- A run of writes changes the bytes it was given, or those below the end when it raises. -/
theorem storeBytes_answers (bs : List Byte) (a : Nat) (s : State) :
    Answers (SameBut (bytesFrom a bs.length) s)
      (fun e left => IsOutOfBounds e ∧ SameBut (bytesFrom a (Config.memSize - a)) s left) (storeBytes a bs s) := by
  obtain ⟨m, hm | ⟨a', ha', hm⟩, -⟩ := storeBytes_cases bs a s
  · rw [hm]
    exact sameBut_storeBytes_next hm
  · rw [hm]
    exact ⟨⟨a', ha', rfl⟩, sameBut_bytesBelowEnd_of_fault hm⟩

/-- A run of register loads changes the registers it was given, or those whose addresses are below the end. -/
theorem loadRegs_answers {n : Nat} (a : Nat) (s : State) (hn : n ≤ 16) :
    Answers (SameBut (regsBelow n) s)
      (fun e left => IsOutOfBounds e ∧ SameBut (regsBelow (Config.memSize - a)) s left) (loadRegs a 0 n s) := by
  by_cases hfit : n = 0 ∨ a + n ≤ Config.memSize
  · obtain ⟨t, ht, -, hframe⟩ := loadRegs_completes s hn hfit
    rw [ht]
    exact hframe
  · obtain ⟨left, hleft, -, hframe⟩ := loadRegs_raises (a := a) s hn (by omega) (by omega)
    rw [hleft]
    exact ⟨isOutOfBounds_max a, hframe⟩

/-! ### Every instruction -/

/-- A fault of execute is one of the instruction's own, and leaves at most its committed part. -/
def OwnFault (i : Instr) (s : State) (e : Error) (left : State) : Prop :=
  raisable i e ∧ SameBut (itemsOfFailure s i) s left

/-- An instruction that raises before it changes anything. -/
theorem OwnFault.unchanged {i : Instr} {e : Error} (s : State) (h : raisable i e) : OwnFault i s e s :=
  ⟨h, SameBut.refl _ s⟩

/-- Every instruction completes and changes only the items its rule names, or raises an error its rule names and has
changed at most the part it commits (R251, R255). -/
theorem exec_answers (i : Instr) (s : State) : Answers (SameBut (itemsWritten s i) s) (OwnFault i s) (exec i s) := by
  have hself {it : Item} {ws : List Item} : it ∈ it :: ws := List.mem_cons_self
  have hsecond {it it' : Item} : it ∈ [it', it] := List.mem_cons_of_mem _ hself
  cases i with
  | clearScreen => exact sameBut_setFb _ hself
  | loadImm x _ | addImm x _ | move x _ | or x _ | and x _ | xor x _ | getDelay x => exact sameBut_setV x _ hself
  | addReg x _ | sub x _ | subN x _ | shiftRight x _ | shiftLeft x _ =>
    exact sameBut_writeResultAndFlag x _ _ hself hsecond
  | random x _ => exact (sameBut_setV x _ hself).trans (sameBut_setDraws _ hsecond)
  | jump _ | jumpOffset _ => exact sameBut_setPc _ hself
  | skipEqImm _ _ | skipNeImm _ _ | skipEqReg _ _ | skipNeReg _ _ => exact sameBut_skipIf _ hself
  | loadIndex _ | addIndex _ => exact sameBut_setI _ hself
  | setDelay _ => exact sameBut_setDt _ hself
  | setSound _ => exact sameBut_setSt _ hself
  | call nnn =>
    rcases Nat.lt_or_ge s.sp.val 16 with h | h
    · rw [exec_call_next nnn h]
      exact sameBut_setStack_setPc s _ _ _
    · rw [exec_call_overflow nnn (by omega)]
      exact OwnFault.unchanged s rfl
  | ret =>
    rcases Nat.eq_zero_or_pos s.sp.val with h | h
    · rw [exec_ret_underflow h]
      exact OwnFault.unchanged s rfl
    · rw [exec_ret_next h]
      exact sameBut_setStack_setPc s _ _ _
  | loadFont x =>
    rcases Nat.lt_or_ge 15 (s.getV x).toNat with h | h
    · rw [exec_loadFont_invalidSprite h]
      exact OwnFault.unchanged s ⟨_, h, rfl⟩
    · rw [exec_loadFont_next h]
      exact sameBut_index s _
  | draw x y n =>
    by_cases hfit : n.toNat = 0 ∨ s.i.toNat + n.toNat ≤ Config.memSize
    · rw [exec_draw_next x y (readBytes_ok n.toNat s.i.toNat s hfit)]
      exact (sameBut_setFb _ hself).trans (sameBut_setV vf _ hsecond)
    · have hn : n ≠ 0 := fun hn => hfit (.inl (hn ▸ rfl))
      rw [exec_draw_raises x y (by omega) (by omega)]
      exact OwnFault.unchanged s ⟨hn, isOutOfBounds_max _⟩
  | skipKeyPressed x =>
    by_cases hkey : s.key = .invalid
    · rw [exec_skipKeyPressed_invalid x hkey]
      exact OwnFault.unchanged s rfl
    · obtain ⟨r, hr, -⟩ := readKey_valid hkey
      rw [exec_skipKeyPressed_next x hr]
      exact sameBut_skipIf _ hself
  | skipKeyNotPressed x =>
    by_cases hkey : s.key = .invalid
    · rw [exec_skipKeyNotPressed_invalid x hkey]
      exact OwnFault.unchanged s rfl
    · obtain ⟨r, hr, -⟩ := readKey_valid hkey
      rw [exec_skipKeyNotPressed_next x hr]
      exact sameBut_skipIf _ hself
  | waitForKey x =>
    rcases readKey_cases s with ⟨-, hr⟩ | ⟨k, -, hr⟩ | ⟨hkey, -⟩
    · rw [exec_waitForKey_next x hr]
      exact sameBut_setPc _ hsecond
    · rw [exec_waitForKey_next x hr]
      exact sameBut_setV x _ hself
    · rw [exec_waitForKey_invalid x hkey]
      exact OwnFault.unchanged s rfl
  | storeBCD x => exact storeBytes_answers (decimalDigits (s.getV x)) s.i.toNat s
  | regDump x =>
    have h := storeBytes_answers (regsUpTo s x) s.i.toNat s
    rw [regsUpTo_length] at h
    rw [exec_regDump]
    exact h
  | regLoad x =>
    rw [exec_regLoad]
    exact loadRegs_answers s.i.toNat s x.isLt

/-- Settles O10: the errors of `exec_answers`. -/
theorem instructionsRaiseOnlyTheirOwnErrors : Obligations.InstructionsRaiseOnlyTheirOwnErrors := by
  unfold Obligations.InstructionsRaiseOnlyTheirOwnErrors
  intro i s left e h
  exact ((exec_answers i s).of_fault h).1

/-- Settles O15: the completed states of `exec_answers`. -/
theorem instructionsChangeOnlyTheirItems : Obligations.InstructionsChangeOnlyTheirItems := by
  unfold Obligations.InstructionsChangeOnlyTheirItems
  intro i s t h
  exact (exec_answers i s).of_next h

/-- Settles O16: the states left by the faults of `exec_answers`. -/
theorem failedInstructionsKeepOnlyTheirPrefix : Obligations.FailedInstructionsKeepOnlyTheirPrefix := by
  unfold Obligations.FailedInstructionsKeepOnlyTheirPrefix
  intro i s left e h
  exact ((exec_answers i s).of_fault h).2

end Sys2Proof.Machine
end

section
/-! Hidden items (`10_state.md` R25 to R31): a change of the state that leaves alone every item an instruction uses commutes
with the instruction. -/

namespace Sys2Proof.Machine

/-- The items an instruction may read or write: the registers, `I`, `PC`, memory and the schedule are open to every
instruction, each other item to its own instructions. -/
def usedBy (i : Instr) : Item → Prop
  | .frame => i.mnemonic = .draw ∨ i.mnemonic = .clearScreen
  | .latch => i.mnemonic = .skipKeyPressed ∨ i.mnemonic = .skipKeyNotPressed ∨ i.mnemonic = .waitForKey
  | .delay => i.mnemonic = .getDelay ∨ i.mnemonic = .setDelay
  | .sound => i.mnemonic = .setSound
  | .stack => i.mnemonic = .call ∨ i.mnemonic = .ret
  | .draws => i.mnemonic = .random
  | .reg _ | .index | .pc | .byte _ | .schedule => True

/-- The change `g` leaves an item alone: it is read as before, and a write of it may come before `g` or after it. -/
def LeavesItem (g : State → State) : Item → Prop
  | .reg k => (∀ s, (g s).getV k = s.getV k) ∧ ∀ s b, (g s).setV k b = g (s.setV k b)
  | .index => (∀ s, (g s).i = s.i) ∧ ∀ s w, (g s).setI w = g (s.setI w)
  | .pc => (∀ s, (g s).pc = s.pc) ∧ ∀ s w, (g s).setPc w = g (s.setPc w)
  | .stack => (∀ s, (g s).stack = s.stack ∧ (g s).sp = s.sp) ∧ ∀ s es n, (g s).setStack es n = g (s.setStack es n)
  | .delay => (∀ s, (g s).dt = s.dt) ∧ ∀ s b, (g s).setDt b = g (s.setDt b)
  | .sound => (∀ s, (g s).st = s.st) ∧ ∀ s b, (g s).setSt b = g (s.setSt b)
  | .latch => (∀ s, (g s).key = s.key) ∧ ∀ s l, (g s).setKey l = g (s.setKey l)
  | .frame => (∀ s, (g s).fb = s.fb) ∧ ∀ s f, (g s).setFb f = g (s.setFb f)
  | .byte _ => (∀ s, (g s).mem = s.mem) ∧ ∀ s m, (g s).setMem m = g (s.setMem m)
  | .draws => (∀ s, (g s).draws = s.draws) ∧ ∀ s n, (g s).setDraws n = g (s.setDraws n)
  | .schedule => (∀ s, (g s).schedule = s.schedule) ∧ ∀ s ts, (g s).setSchedule ts = g (s.setSchedule ts)

/-! ### The shared operations -/

@[simp] theorem mapState_next (g : State → State) (s : State) : mapState g (.next s) = .next (g s) := rfl

theorem mapState_orRaise {α : Type} (g : State → State) (s : State) (r : Except Error α) (k : α → StepResult) :
    mapState g (orRaise s r k) = orRaise (g s) r fun a => mapState g (k a) := by
  cases r <;> rfl

theorem readBytes_congr {s t : State} (h : t.mem = s.mem) (a n : Nat) : readBytes t a n = readBytes s a n := by
  induction n generalizing a with
  | zero => rfl
  | succ n ih => rw [readBytes, readBytes, memRead_congr h, ih]

theorem readKey_congr {s t : State} (h : t.key = s.key) : readKey t = readKey s := by rw [readKey, readKey, h]

theorem storeBytes_map {g : State → State} {a' : Nat} (hg : LeavesItem g (.byte a')) (a : Nat) (bs : List Byte) (s : State) :
    storeBytes a bs (g s) = mapState g (storeBytes a bs s) := by
  obtain ⟨hmem, hset⟩ := hg
  induction bs generalizing a s with
  | nil => rfl
  | cons b bs ih =>
    rcases Nat.lt_or_ge a Config.memSize with ha | ha
    · simp only [storeBytes, memWrite_ok b ha, orRaise_ok, hmem, hset, ih]
    · simp only [storeBytes, memWrite_error b ha, orRaise_error, mapState]

theorem loadRegs_map {g : State → State} {a' : Nat} (hmem : LeavesItem g (.byte a')) (hreg : ∀ k, LeavesItem g (.reg k))
    (a k n : Nat) (s : State) : loadRegs a k n (g s) = mapState g (loadRegs a k n s) := by
  induction n generalizing a k s with
  | zero => rfl
  | succ n ih =>
    rw [loadRegs, loadRegs, mapState_orRaise, memRead_congr (hmem.1 s)]
    simp only [(hreg _).2, ih]

theorem skipIf_map {g : State → State} (hg : LeavesItem g .pc) (c : Bool) (s : State) :
    skipIf c (g s) = g (skipIf c s) := by
  cases c
  · rfl
  · simp only [skipIf, if_true, hg.1, hg.2]

theorem regsUpTo_map {g : State → State} (hg : ∀ k, LeavesItem g (.reg k)) (s : State) (x : RegIx) :
    regsUpTo (g s) x = regsUpTo s x := by
  simp only [regsUpTo, (hg _).1]

theorem push_map {g : State → State} (hg : LeavesItem g .stack) (s : State) (w : Word) :
    push (g s) w = (push s w).map g := by
  unfold push
  simp only [hg.1 s, hg.2]
  split <;> rfl

theorem pop_map {g : State → State} (hg : LeavesItem g .stack) (s : State) :
    pop (g s) = (pop s).map fun p => (p.1, g p.2) := by
  unfold pop
  simp only [hg.1 s, hg.2]
  split <;> rfl

theorem orRaise_map {α β : Type} (s : State) (r : Except Error α) (f : α → β) (k : β → StepResult) :
    orRaise s (r.map f) k = orRaise s r fun a => k (f a) := by
  cases r <;> rfl

theorem keyMatches_congr {s t : State} {x : RegIx} (h : t.getV x = s.getV x) (k : Option Nibble) :
    keyMatches t x k = keyMatches s x k := by
  cases k with
  | none => rfl
  | some k => rw [keyMatches, keyMatches, h]

theorem takeKey_map {g : State → State} {x : RegIx} (hreg : LeavesItem g (.reg x)) (hpc : LeavesItem g .pc) (s : State)
    (k : Option Nibble) : takeKey x (g s) k = g (takeKey x s k) := by
  cases k with
  | none => simp only [takeKey, hpc.1, hpc.2]
  | some k => simp only [takeKey, hreg.2]

/-! ### Every instruction -/

/-- A change that leaves alone what an instruction uses commutes with it. -/
theorem exec_map {g : State → State} {i : Instr} (h : ∀ it, usedBy i it → LeavesItem g it) (s : State) :
    exec i (g s) = mapState g (exec i s) := by
  have hreg (k : RegIx) : LeavesItem g (.reg k) := h (.reg k) trivial
  have hgetV (k : RegIx) (s : State) : (g s).getV k = s.getV k := (hreg k).1 s
  have hsetV (k : RegIx) (b : Byte) (s : State) : (g s).setV k b = g (s.setV k b) := (hreg k).2 s b
  obtain ⟨hi, hsetI⟩ : LeavesItem g .index := h .index trivial
  have hpcItem : LeavesItem g .pc := h .pc trivial
  have ⟨hpc, hsetPc⟩ := hpcItem
  have hbyte : LeavesItem g (.byte 0) := h (.byte 0) trivial
  cases i with
  | loadImm x nn | addImm x nn | move x y | or x y | and x y | xor x y =>
    simp only [exec_loadImm, exec_addImm, exec_move, exec_or, exec_and, exec_xor, mapState_next, hgetV, hsetV]
  | addReg x y | sub x y | subN x y | shiftRight x y | shiftLeft x y =>
    simp only [exec_addReg, exec_sub, exec_subN, exec_shiftRight, exec_shiftLeft, writeResultAndFlag_eq, mapState_next,
      hgetV, hsetV]
  | skipEqImm x nn | skipNeImm x nn | skipEqReg x y | skipNeReg x y =>
    simp only [exec_skipEqImm, exec_skipNeImm, exec_skipEqReg, exec_skipNeReg, mapState_next, hgetV, skipIf_map hpcItem]
  | jump nnn | jumpOffset nnn => simp only [exec_jump, exec_jumpOffset, mapState_next, hgetV, hsetPc]
  | loadIndex nnn | addIndex x => simp only [exec_loadIndex, exec_addIndex, mapState_next, hi, hgetV, hsetI]
  | loadFont x => simp only [exec, execLoadFont, mapState_orRaise, mapState_next, hgetV, hsetI]
  | storeBCD x => simp only [exec_storeBCD, hi, hgetV, storeBytes_map hbyte]
  | regDump x => simp only [exec_regDump, hi, regsUpTo_map hreg, storeBytes_map hbyte]
  | regLoad x => simp only [exec_regLoad, hi, loadRegs_map hbyte hreg]
  | clearScreen =>
    obtain ⟨-, hsetFb⟩ : LeavesItem g .frame := h .frame (.inr rfl)
    simp only [exec_clearScreen, mapState_next, hsetFb]
  | draw x y n =>
    obtain ⟨hfb, hsetFb⟩ : LeavesItem g .frame := h .frame (.inl rfl)
    simp only [exec, execDraw, effectiveAddress, mapState_orRaise, readBytes_congr (hbyte.1 s), mapState_next, hi, hfb,
      hgetV, hsetFb, hsetV]
  | ret =>
    have hstack : LeavesItem g .stack := h .stack (.inr rfl)
    simp only [exec, execRet, mapState_orRaise, pop_map hstack, orRaise_map, mapState_next, hsetPc]
  | call nnn =>
    have hstack : LeavesItem g .stack := h .stack (.inl rfl)
    simp only [exec, execCall, mapState_orRaise, push_map hstack, orRaise_map, mapState_next, hpc, hsetPc]
  | random x nn =>
    obtain ⟨hdraws, hsetDraws⟩ : LeavesItem g .draws := h .draws rfl
    simp only [exec_random, mapState_next, hdraws, hsetV, hsetDraws]
  | skipKeyPressed x =>
    obtain ⟨hkey, -⟩ : LeavesItem g .latch := h .latch (.inl rfl)
    simp only [exec, execSkipKeyPressed, mapState_orRaise, readKey_congr (hkey s), keyMatches_congr (hgetV x s),
      mapState_next, skipIf_map hpcItem]
  | skipKeyNotPressed x =>
    obtain ⟨hkey, -⟩ : LeavesItem g .latch := h .latch (.inr (.inl rfl))
    simp only [exec, execSkipKeyNotPressed, mapState_orRaise, readKey_congr (hkey s), keyMatches_congr (hgetV x s),
      mapState_next, skipIf_map hpcItem]
  | waitForKey x =>
    obtain ⟨hkey, -⟩ : LeavesItem g .latch := h .latch (.inr (.inr rfl))
    simp only [exec, execWaitForKey, mapState_orRaise, readKey_congr (hkey s), takeKey_map (hreg x) hpcItem, mapState_next]
  | getDelay x =>
    obtain ⟨hdt, -⟩ : LeavesItem g .delay := h .delay (.inl rfl)
    simp only [exec_getDelay, mapState_next, hdt, hsetV]
  | setDelay x =>
    obtain ⟨-, hsetDt⟩ : LeavesItem g .delay := h .delay (.inr rfl)
    simp only [exec_setDelay, mapState_next, hgetV, hsetDt]
  | setSound x =>
    obtain ⟨-, hsetSt⟩ : LeavesItem g .sound := h .sound rfl
    simp only [exec_setSound, mapState_next, hgetV, hsetSt]

/-! ### The hidden items, one by one -/

theorem leavesItem_setSt (b : Byte) {it : Item} (h : it ≠ .sound) : LeavesItem (fun t => t.setSt b) it := by
  cases it with
  | sound => exact absurd rfl h
  | stack => exact ⟨fun _ => ⟨rfl, rfl⟩, fun _ _ _ => rfl⟩
  | _ => exact ⟨fun _ => rfl, fun _ _ => rfl⟩

theorem leavesItem_setDraws (n : Nat) {it : Item} (h : it ≠ .draws) : LeavesItem (fun t => t.setDraws n) it := by
  cases it with
  | draws => exact absurd rfl h
  | stack => exact ⟨fun _ => ⟨rfl, rfl⟩, fun _ _ _ => rfl⟩
  | _ => exact ⟨fun _ => rfl, fun _ _ => rfl⟩

theorem leavesItem_setFb (f : Frame) {it : Item} (h : it ≠ .frame) : LeavesItem (fun t => t.setFb f) it := by
  cases it with
  | frame => exact absurd rfl h
  | stack => exact ⟨fun _ => ⟨rfl, rfl⟩, fun _ _ _ => rfl⟩
  | _ => exact ⟨fun _ => rfl, fun _ _ => rfl⟩

theorem leavesItem_setKey (l : Latch) {it : Item} (h : it ≠ .latch) : LeavesItem (fun t => t.setKey l) it := by
  cases it with
  | latch => exact absurd rfl h
  | stack => exact ⟨fun _ => ⟨rfl, rfl⟩, fun _ _ _ => rfl⟩
  | _ => exact ⟨fun _ => rfl, fun _ _ => rfl⟩

theorem leavesItem_setDt (b : Byte) {it : Item} (h : it ≠ .delay) : LeavesItem (fun t => t.setDt b) it := by
  cases it with
  | delay => exact absurd rfl h
  | stack => exact ⟨fun _ => ⟨rfl, rfl⟩, fun _ _ _ => rfl⟩
  | _ => exact ⟨fun _ => rfl, fun _ _ => rfl⟩

theorem leavesItem_setStack (es : Vector Word 16) (n : Fin 17) {it : Item} (h : it ≠ .stack) :
    LeavesItem (fun t => t.setStack es n) it := by
  cases it with
  | stack => exact absurd rfl h
  | _ => exact ⟨fun _ => rfl, fun _ _ => rfl⟩

/-- A change of one item is invisible to an instruction that does not use the item. -/
theorem exec_map_of_not_usedBy {g : State → State} {i : Instr} {hidden : Item}
    (hg : ∀ {it}, it ≠ hidden → LeavesItem g it) (hi : ¬usedBy i hidden) (s : State) :
    exec i (g s) = mapState g (exec i s) :=
  exec_map (fun _ hused => hg fun heq => hi (heq ▸ hused)) s

/-- Settles O18: the draws are used by `Random` alone. -/
theorem onlyRandomReadsTheRandomByte : Obligations.OnlyRandomReadsTheRandomByte := by
  unfold Obligations.OnlyRandomReadsTheRandomByte
  intro i s k hi
  exact exec_map_of_not_usedBy (leavesItem_setDraws k) hi s

/-- Settles O19: each of the four items is used by its own instructions alone. -/
theorem hiddenItemsAreReadOnlyByTheirInstructions : Obligations.HiddenItemsAreReadOnlyByTheirInstructions := by
  unfold Obligations.HiddenItemsAreReadOnlyByTheirInstructions
  intro i s
  refine ⟨fun f hdraw hclear => ?_, fun l hpressed hnot hwait => ?_, fun b hget hset => ?_, fun es n hcall hret => ?_⟩
  · exact exec_map_of_not_usedBy (leavesItem_setFb f) (not_or.mpr ⟨hdraw, hclear⟩) s
  · exact exec_map_of_not_usedBy (leavesItem_setKey l) (not_or.mpr ⟨hpressed, not_or.mpr ⟨hnot, hwait⟩⟩) s
  · exact exec_map_of_not_usedBy (leavesItem_setDt b) (not_or.mpr ⟨hget, hset⟩) s
  · exact exec_map_of_not_usedBy (leavesItem_setStack es n) (not_or.mpr ⟨hcall, hret⟩) s

/-- Settles O17: the fetch reads `PC` and memory, and the sound timer is used by `SetSound` alone, which replaces it
without reading it. -/
theorem soundTimerIsInvisible : Obligations.SoundTimerIsInvisible := by
  unfold Obligations.SoundTimerIsInvisible
  intro i s b
  refine ⟨rfl, ?_⟩
  by_cases hi : i.mnemonic = .setSound
  · simp only [if_pos hi]
    cases i with
    | setSound x => rfl
    | _ => simp [Instr.mnemonic] at hi
  · simp only [if_neg hi]
    exact exec_map_of_not_usedBy (leavesItem_setSt b) hi s

end Sys2Proof.Machine
end

section
/-! The step cycle (`40_step_cycle.md`): what a `STEP` does, which transaction happens, and the invariant every transaction
keeps. -/

namespace Sys2Proof.Machine

/-! ### One `STEP` -/

theorem fetchDecode_of_decode {s : State} {hi lo : Byte} {i : Instr} (hhi : memRead s s.pc.toNat = .ok hi)
    (hlo : memRead s (s.pc.toNat + 1) = .ok lo) (hd : decode hi lo = .ok i) : fetchDecode s = .ok i := by
  simp only [fetchDecode, fetch, hhi, hlo, hd]

theorem fetchDecode_of_decode_error {s : State} {hi lo : Byte} {w : Word} (hhi : memRead s s.pc.toNat = .ok hi)
    (hlo : memRead s (s.pc.toNat + 1) = .ok lo) (hd : decode hi lo = .error (.invalidOpcode w)) :
    fetchDecode s = .error (.invalidOpcode w) := by
  simp only [fetchDecode, fetch, hhi, hlo, hd, errorOfOpcode]

theorem fetchDecode_past_end {s : State} (h : Config.memSize ≤ s.pc.toNat + 1) :
    fetchDecode s = .error (.addressOutOfBounds (max s.pc.toNat Config.memSize)) := by
  simp only [fetchDecode, fetch_error h]

/-- A fetch or a decode that fails raises `AddressOutOfBounds` or `InvalidOpcode` (R121, R97). -/
theorem fetchDecode_error {s : State} {e : Error} (h : fetchDecode s = .error e) :
    IsOutOfBounds e ∨ ∃ w, e = .invalidOpcode w := by
  rcases Nat.lt_or_ge (s.pc.toNat + 1) Config.memSize with hpc | hpc
  · have hfetch := fetch_ok hpc
    cases hd : decode (s.mem.byteAt s.pc.toNat) (s.mem.byteAt (s.pc.toNat + 1)) with
    | ok i => simp [fetchDecode, hfetch, hd] at h
    | error e' =>
      obtain rfl := decodeWord_error hd
      exact .inr ⟨_, by simpa [fetchDecode, hfetch, hd] using h.symm⟩
  · rw [fetchDecode_past_end hpc] at h
    exact .inl (Except.error.inj h ▸ isOutOfBounds_max _)

/-- A good fetch has both its bytes below the end. -/
theorem pc_lt_of_fetchDecode {s : State} {i : Instr} (h : fetchDecode s = .ok i) : s.pc.toNat + 1 < Config.memSize := by
  by_contra hpc
  simp [fetchDecode_past_end (Nat.not_lt.mp hpc)] at h

theorem engineStep_of_fetchDecode {s : State} {i : Instr} (h : fetchDecode s = .ok i) :
    engineStep s = exec i (advance s) := by
  rw [engineStep, h, orRaise_ok]

theorem engineStep_of_error {s : State} {e : Error} (h : fetchDecode s = .error e) :
    engineStep s = .fault (.stepError e s) := by
  rw [engineStep, h, orRaise_error]

/-! ### Which transaction happens -/

theorem step_of_schedule_nil {s : State} (h : s.schedule = []) : step s = engineStep s := by
  unfold step
  rw [h]

theorem step_of_schedule_step {s : State} {rest : List Transaction} (h : s.schedule = .step :: rest) :
    step s = engineStep (s.setSchedule rest) := by
  unfold step
  rw [h]

theorem step_of_schedule_host {s : State} {m : HostMove} {rest : List Transaction} (h : s.schedule = .host m :: rest) :
    step s = hostMove m (s.setSchedule rest) := by
  unfold step
  rw [h]

/-- One step is a `STEP` or a transaction of the host, in the state with what remains of the schedule. -/
theorem step_cases (s : State) : ∃ rest, step s = engineStep (s.setSchedule rest) ∨
    ∃ m, step s = hostMove m (s.setSchedule rest) := by
  match h : s.schedule with
  | [] => exact ⟨s.schedule, .inl (step_of_schedule_nil h)⟩
  | .step :: rest => exact ⟨rest, .inl (step_of_schedule_step h)⟩
  | .host m :: rest => exact ⟨rest, .inr ⟨m, step_of_schedule_host h⟩⟩

/-- A step answers what both kinds of transaction answer. -/
theorem Answers.step {N : State → Prop} {F : Error → State → Prop} {s : State}
    (hengine : ∀ rest, Answers N F (engineStep (s.setSchedule rest)))
    (hhost : ∀ rest m, Answers N F (hostMove m (s.setSchedule rest))) : Answers N F (step s) := by
  obtain ⟨rest, h | ⟨m, h⟩⟩ := step_cases s
  · exact h ▸ hengine rest
  · exact h ▸ hhost rest m

/-- The host's transactions keep the schedule, and only `LOAD` can raise, past the end of memory (R251). -/
theorem hostMove_answers (m : HostMove) (s : State) : Answers (fun t => t.schedule = s.schedule)
    (fun e left => IsOutOfBounds e ∧ left.schedule = s.schedule ∧ ∃ bytes, m = .load bytes) (hostMove m s) := by
  cases m with
  | load bytes =>
    obtain ⟨mem, hm | ⟨a, ha, hm⟩, -⟩ := storeBytes_cases bytes Config.loadAddr s <;> rw [hostMove, load, hm]
    · rfl
    · exact ⟨⟨a, ha, rfl⟩, rfl, bytes, rfl⟩
  | reset | tick | keyPress _ | keyRelease | read _ => rfl

/-- No transaction is refused, and none raises `InvalidAddress`. -/
theorem step_answers (s : State) : Answers (fun _ => True) (fun e _ => ∀ w, e ≠ .invalidAddress w) (step s) := by
  have hbounds {e : Error} (h : IsOutOfBounds e) (w : Word) : e ≠ .invalidAddress w := by
    obtain ⟨a, -, rfl⟩ := h
    simp
  refine Answers.step (fun rest => Answers.orRaise (fun e he => ?_) fun i _ => ?_) fun rest m => ?_
  · rcases fetchDecode_error he with h | ⟨w', rfl⟩
    · exact hbounds h
    · simp
  · refine (exec_answers i _).imp (fun _ _ => trivial) fun e left h w hw => ?_
    have hraise := h.1
    subst hw
    cases i <;> simp [raisable] at hraise
  · exact (hostMove_answers m _).imp (fun _ _ => trivial) fun e left h => hbounds h.1

/-! ### The statements about one step -/

/-- Settles O5: a good fetch and decode, then execute with `PC` advanced, whatever of the schedule remains. -/
theorem stepRunsTheDecodedInstruction : Obligations.StepRunsTheDecodedInstruction := by
  unfold Obligations.StepRunsTheDecodedInstruction
  intro s hi lo i hhi hlo hd
  refine ⟨fun h => ?_, fun rest h => ?_⟩
  · rw [step_of_schedule_nil h, engineStep_of_fetchDecode (fetchDecode_of_decode hhi hlo hd)]
    rfl
  · have hfetch : fetchDecode (s.setSchedule rest) = .ok i := fetchDecode_of_decode (s := s) hhi hlo hd
    rw [step_of_schedule_step h, engineStep_of_fetchDecode hfetch]
    rfl

/-- Settles O6: both bytes read back, the first because the second write is at another address. -/
theorem storedWordIsTheNextInstruction : Obligations.StoredWordIsTheNextInstruction := by
  unfold Obligations.StoredWordIsTheNextInstruction
  intro s i hwf hsched hpc t u ht hu
  rw [memWrite_ok _ (show s.pc.toNat < Config.memSize by rw [Config.memSize]; omega)] at ht
  rw [← Except.ok.inj ht, memWrite_ok _ hpc] at hu
  obtain ⟨hmem, hupc, husched⟩ : u.mem = (s.mem.put s.pc.toNat (highByte (encode i))).put (s.pc.toNat + 1)
      (lowByte (encode i)) ∧ u.pc = s.pc ∧ u.schedule = [] := by
    rw [← Except.ok.inj hu]
    exact ⟨rfl, rfl, hsched⟩
  have hhi : u.mem.byteAt s.pc.toNat = highByte (encode i) := by
    rw [hmem, Memory.byteAt_put_other _ _ (by omega), Memory.byteAt_put_same _ _ _ hwf.1]
  have hlo : u.mem.byteAt (s.pc.toNat + 1) = lowByte (encode i) := by
    rw [hmem, Memory.byteAt_put_same _ _ _ (Memory.put_pairwise _ _ _ hwf.1)]
  have hfetch : fetchDecode u = .ok i := by
    refine fetchDecode_of_decode (hi := highByte (encode i)) (lo := lowByte (encode i)) ?_ ?_ (decode_encode i)
    · rw [hupc, memRead_ok (by rw [Config.memSize]; omega), hhi]
    · rw [hupc, memRead_ok hpc, hlo]
  rw [step_of_schedule_nil husched, engineStep_of_fetchDecode hfetch, ← hupc]
  rfl

/-- Settles O7: fetch and decode come before the advance of `PC`, so their errors leave the state. -/
theorem fetchAndDecodeErrorsChangeNothing : Obligations.FetchAndDecodeErrorsChangeNothing := by
  unfold Obligations.FetchAndDecodeErrorsChangeNothing
  intro s hsched
  refine ⟨fun hpc => ?_, fun hpc => ?_, fun hi lo w hhi hlo hd => ?_⟩ <;> rw [step_of_schedule_nil hsched]
  · have hfetch := fetchDecode_past_end (s := s) (by rw [hpc, Config.memSize])
    rw [hpc] at hfetch
    exact engineStep_of_error hfetch
  · have hfetch := fetchDecode_past_end (s := s) (by rw [Config.memSize]; omega)
    rw [Nat.max_eq_left hpc] at hfetch
    exact engineStep_of_error hfetch
  · exact engineStep_of_error (fetchDecode_of_decode_error hhi hlo hd)

/-- Settles O8: `step` hands the transaction the rest of the schedule, and `hostMove_answers` says what it answers. -/
theorem scheduledTransactionHappensNext : Obligations.ScheduledTransactionHappensNext := by
  unfold Obligations.ScheduledTransactionHappensNext
  intro s m rest hsched
  have hstep := step_of_schedule_host hsched
  have hanswer := hostMove_answers m (s.setSchedule rest)
  rw [← hstep] at hanswer
  refine ⟨hstep, fun q hq => ?_, fun t ht => hanswer.of_next ht, fun e left h => (hanswer.of_fault h).2, fun hload => ?_⟩
  · rw [hstep, hq]
    rfl
  · match h : step s with
    | .next t => exact ⟨t, rfl⟩
    | .fault (.stepError e left) =>
      obtain ⟨-, -, bytes, hm⟩ := hanswer.of_fault h
      exact absurd hm (hload bytes)
    | .refused c => exact absurd h (hanswer.not_refused c)

/-- Settles O9: the errors of `step_answers`. -/
theorem invalidAddressIsNeverReturned : Obligations.InvalidAddressIsNeverReturned := by
  unfold Obligations.InvalidAddressIsNeverReturned
  intro s left w h
  exact (step_answers s).of_fault h w rfl

/-- Settles O11: no case of `step_answers` is a refusal. -/
theorem noStepIsRefused : Obligations.NoStepIsRefused := by
  unfold Obligations.NoStepIsRefused
  intro s r
  exact (step_answers s).not_refused r

/-- Settles O57: a self-jump writes the `PC` it was fetched at, and waiting takes back the advance. -/
theorem selfJumpAndWaitingAreFixedPoints : Obligations.SelfJumpAndWaitingAreFixedPoints := by
  unfold Obligations.SelfJumpAndWaitingAreFixedPoints
  intro s hsched
  have hback (w : Word) (hw : w = s.pc) : (advance s).setPc w = s := by rw [hw, advance, State.setPc_setPc, State.setPc_self]
  refine ⟨fun hfin => ?_, fun x hfetch hkey => ?_⟩ <;> rw [step_of_schedule_nil hsched]
  · obtain ⟨nnn, hnnn, hfetch⟩ := hfin
    rw [engineStep_of_fetchDecode hfetch, exec_jump, hback _ (BitVec.eq_of_toNat_eq (by rw [addressOf_toNat, hnnn]))]
  · have hkey' : (advance s).key = .none := hkey
    rw [engineStep_of_fetchDecode hfetch, exec_waitForKey_next x (readKey_none hkey'), takeKey_none,
      advance_pc, hback _ (BitVec.add_sub_cancel s.pc 2)]

/-! ### The invariant -/

/-- Settles O12: nothing is listed, `PC` is 0x200 and the stack is empty. -/
theorem invariantHoldsAtReset : Obligations.InvariantHoldsAtReset := by
  unfold Obligations.InvariantHoldsAtReset
  exact ⟨reset_mem_wf, by decide, by decide⟩

/-- Both the states an answer completes in and those it leaves on an error meet the invariant. -/
abbrev KeepsInvariant : StepResult → Prop := Answers StateInvariant fun _ => StateInvariant

theorem StateInvariant.mem_wf {s : State} (h : StateInvariant s) : s.mem.wf := h.1

theorem StateInvariant.pc_le {s : State} (h : StateInvariant s) : s.pc.toNat ≤ 0x10FE := h.2.1

theorem StateInvariant.stack_le {s : State} (h : StateInvariant s) (k : Fin 16) (hk : k.val < s.sp.val) :
    (s.stack[k.val]).toNat ≤ 0x1000 := h.2.2 k hk

theorem StateInvariant.setPc {s : State} (h : StateInvariant s) {w : Word} (hw : w.toNat ≤ 0x10FE) :
    StateInvariant (s.setPc w) := ⟨h.mem_wf, hw, h.stack_le⟩

theorem StateInvariant.setMem {s : State} (h : StateInvariant s) {m : Memory} (hm : m.wf) :
    StateInvariant (s.setMem m) := ⟨hm, h.pc_le, h.stack_le⟩

theorem StateInvariant.storeBytes {s : State} (h : StateInvariant s) (a : Nat) (bs : List Byte) :
    KeepsInvariant (storeBytes a bs s) := by
  obtain ⟨m, hm | ⟨_, -, hm⟩, hwf, -⟩ := storeBytes_cases bs a s <;> rw [hm] <;> exact h.setMem (hwf h.mem_wf)

theorem StateInvariant.loadRegs {s : State} (h : StateInvariant s) (a k n : Nat) : KeepsInvariant (loadRegs a k n s) := by
  obtain ⟨v, hv | ⟨_, -, hv⟩⟩ := loadRegs_cases n a k s <;> rw [hv] <;> exact h

theorem StateInvariant.skipIf {s : State} (h : StateInvariant s) (hpc : s.pc.toNat ≤ 0x1000) (c : Bool) :
    StateInvariant (skipIf c s) := by
  have hskip := skipIf_pc_toNat c s
  refine ⟨?_, ?_, ?_⟩
  · cases c <;> exact h.mem_wf
  · rw [hskip]
    split <;> omega
  · cases c <;> exact h.stack_le

/-- `Call` pushes the advanced `PC`, at most 0x1000, above the entries there were. -/
theorem StateInvariant.push {s : State} (h : StateInvariant s) (hpc : s.pc.toNat ≤ 0x1000) (hsp : s.sp.val < 16) :
    StateInvariant (s.setStack (s.stack.set s.sp.val s.pc) ⟨s.sp.val + 1, by omega⟩) := by
  refine ⟨h.mem_wf, h.pc_le, fun k hk => ?_⟩
  rw [State.setStack_sp] at hk
  rw [State.setStack_stack, Vector.getElem_set]
  split
  · exact hpc
  · exact h.stack_le k (by dsimp only at hk; omega)

/-- `Return` takes the count back over a valid entry, which is at most 0x1000. -/
theorem StateInvariant.pop {s : State} (h : StateInvariant s) (hsp : 0 < s.sp.val) :
    StateInvariant ((s.setStack s.stack ⟨s.sp.val - 1, by omega⟩).setPc s.stack[s.sp.val - 1]) := by
  refine ⟨h.mem_wf, ?_, fun k hk => h.stack_le k ?_⟩
  · have htop := h.stack_le ⟨s.sp.val - 1, by omega⟩ (by dsimp only; omega)
    rw [State.setPc_pc]
    exact Nat.le_trans htop (by decide)
  · rw [State.setPc_sp, State.setStack_sp] at hk
    dsimp only at hk
    omega

/-- Every instruction keeps the invariant where `PC` was advanced past a fetched one. -/
theorem exec_keepsInvariant (i : Instr) {s : State} (h : StateInvariant s) (hlow : 2 ≤ s.pc.toNat)
    (hhigh : s.pc.toNat ≤ 0x1000) : KeepsInvariant (exec i s) := by
  cases i with
  | clearScreen | loadImm _ _ | addImm _ _ | move _ _ | or _ _ | and _ _ | xor _ _ | addReg _ _ | sub _ _ | subN _ _
  | shiftRight _ _ | shiftLeft _ _ | random _ _ | loadIndex _ | addIndex _ | getDelay _ | setDelay _ | setSound _ =>
    exact h
  | jump nnn =>
    have hn : nnn.toNat < 2 ^ 12 := nnn.isLt
    exact h.setPc (by rw [addressOf_toNat]; omega)
  | jumpOffset nnn => exact h.setPc (jumpOffset_target_le nnn _)
  | skipEqImm _ _ | skipNeImm _ _ | skipEqReg _ _ | skipNeReg _ _ => exact h.skipIf hhigh _
  | call nnn =>
    have hn : nnn.toNat < 2 ^ 12 := nnn.isLt
    rcases Nat.lt_or_ge s.sp.val 16 with hsp | hsp
    · rw [exec_call_next nnn hsp]
      exact (h.push hhigh hsp).setPc (by rw [addressOf_toNat]; omega)
    · rw [exec_call_overflow nnn (by omega)]
      exact h
  | ret =>
    rcases Nat.eq_zero_or_pos s.sp.val with hsp | hsp
    · rw [exec_ret_underflow hsp]
      exact h
    · rw [exec_ret_next hsp]
      exact h.pop hsp
  | loadFont x => exact Answers.orRaise (fun _ _ => h) fun _ _ => h
  | draw x y n => exact Answers.orRaise (fun _ _ => h) fun _ _ => h
  | skipKeyPressed x | skipKeyNotPressed x => exact Answers.orRaise (fun _ _ => h) fun _ _ => h.skipIf hhigh _
  | waitForKey x =>
    refine Answers.orRaise (fun _ _ => h) fun k _ => ?_
    cases k with
    | none =>
      rw [takeKey_none]
      exact h.setPc (by bv_omega)
    | some k => exact h
  | storeBCD x => exact h.storeBytes _ _
  | regDump x =>
    rw [exec_regDump]
    exact h.storeBytes _ _
  | regLoad x =>
    rw [exec_regLoad]
    exact h.loadRegs _ _ _

/-- A `STEP` fetches below the end, so it runs with `PC` advanced to at most 0x1000. -/
theorem engineStep_keepsInvariant {s : State} (h : StateInvariant s) : KeepsInvariant (engineStep s) := by
  refine Answers.orRaise (fun _ _ => h) fun i hi => ?_
  have hpc : s.pc.toNat + 1 < 4096 := pc_lt_of_fetchDecode hi
  have hadv : (advance s).pc.toNat = s.pc.toNat + 2 := by
    rw [advance_pc, BitVec.toNat_add]
    exact Nat.mod_eq_of_lt (show s.pc.toNat + 2 < 65536 by omega)
  exact exec_keepsInvariant i (h.setPc (show (advance s).pc.toNat ≤ 0x10FE by omega)) (by omega) (by omega)

/-- Every transaction of the host keeps the invariant. -/
theorem hostMove_keepsInvariant (m : HostMove) {s : State} (h : StateInvariant s) : KeepsInvariant (hostMove m s) := by
  cases m with
  | reset => exact invariantHoldsAtReset
  | load bytes => exact h.storeBytes _ _
  | tick | keyPress _ | keyRelease | read _ => exact h

/-- One step keeps the invariant, whatever the host does. -/
theorem step_keepsInvariant {s : State} (h : StateInvariant s) : KeepsInvariant (step s) :=
  Answers.step (fun rest => engineStep_keepsInvariant (s := s.setSchedule rest) h)
    fun rest m => hostMove_keepsInvariant m (s := s.setSchedule rest) h

/-- Settles O13: `step_keepsInvariant`, for both kinds of answer. -/
theorem everyTransactionKeepsTheInvariant : Obligations.EveryTransactionKeepsTheInvariant := by
  unfold Obligations.EveryTransactionKeepsTheInvariant
  intro s h
  exact ⟨fun t ht => (step_keepsInvariant h).of_next ht, fun e left hl => (step_keepsInvariant h).of_fault hl⟩

/-! ### Runs -/

/-- A run of a machine is a step and then a shorter run. -/
theorem run_succ_of_step (M : Host.Core) {s t : M.State} (n : Nat) (h : M.step s = .next t) :
    M.run (n + 1) s = M.run n t := by
  rw [Host.Core.run, h]

/-- What every completed step of a machine keeps, every completed run keeps. -/
theorem run_keeps (M : Host.Core) {P : M.State → Prop} (hstep : ∀ s t, P s → M.step s = .next t → P t) (n : Nat)
    {s t : M.State} (hs : P s) (hrun : M.run n s = .next t) : P t := by
  induction n generalizing s with
  | zero => exact Host.Outcome.next.inj hrun ▸ hs
  | succ n ih =>
    cases h : M.step s with
    | next u =>
      rw [run_succ_of_step M n h] at hrun
      exact ih (hstep s u hs h) hrun
    | fault e => simp [Host.Core.run, h] at hrun
    | refused c => simp [Host.Core.run, h] at hrun

/-- Settles O14: the invariant holds at reset, whatever the schedule, and every completed run keeps it. -/
theorem reachablePcIsBounded : Obligations.ReachablePcIsBounded := by
  unfold Obligations.ReachablePcIsBounded
  intro order n t hrun
  obtain ⟨-, hpc, -⟩ : StateInvariant t := run_keeps Sys2Proof.core
    (fun _ _ h hstep => (step_keepsInvariant h).of_next hstep) n (s := State.reset.setSchedule order)
    invariantHoldsAtReset hrun
  exact hpc

end Sys2Proof.Machine
end

section
/-! The host's transactions (`10_state.md` R34, `70_reset_and_hazards.md`): ticks, keys, `RESET` and `LOAD`. -/

namespace Sys2Proof.Machine

/-! ### Ticks and keys -/

/-- `n` ticks are one truncated subtraction of `n` from each timer. -/
theorem iterate_tick_toNat (s : State) (n : Nat) :
    (tick^[n] s).dt.toNat = s.dt.toNat - n ∧ (tick^[n] s).st.toNat = s.st.toNat - n := by
  induction n with
  | zero => exact ⟨rfl, rfl⟩
  | succ n ih =>
    rw [Function.iterate_succ_apply', tick_dt, tick_st, ticked_toNat, ticked_toNat]
    omega

/-- Settles O52: truncated subtraction reaches 0 exactly from the counter's own value on. -/
theorem timersReachZeroAfterTheirTicks : Obligations.TimersReachZeroAfterTheirTicks := by
  unfold Obligations.TimersReachZeroAfterTheirTicks
  intro s n
  obtain ⟨hdt, hst⟩ := iterate_tick_toNat s n
  refine ⟨hdt, hst, ?_⟩
  rw [← BitVec.toNat_inj, hdt]
  exact Nat.sub_eq_zero_iff_le

theorem hostMove_keyPress (key : String) (s : State) : hostMove (.keyPress key) s = .next (s.setKey (classifyKey key)) := rfl

theorem hostMove_keyRelease (s : State) : hostMove .keyRelease s = .next (s.setKey .none) := rfl

/-- R238: the key strings are the sixteen keys, in the order of their numbers. -/
theorem classifyKey_keyStrings (k : Fin 16) :
    classifyKey (keyStrings.getD k.val "") = .key (BitVec.ofNat 4 k.val) := by
  revert k
  decide

/-- R238: a string is classified by its characters, so any other string is invalid. -/
theorem classifyKey_of_not_mem {key : String} (h : key ∉ keyStrings) : classifyKey key = .invalid := by
  have hchars : key.toList ∉ keyStrings.map String.toList := by
    rwa [List.mem_map_of_injective fun _ _ => String.toList_inj.mp]
  unfold classifyKey
  split
  case h_17 => rfl
  all_goals next heq => exact absurd (heq ▸ by decide) hchars

/-- Settles O53: one write of the latch each. -/
theorem keyTransactionsSetTheLatch : Obligations.KeyTransactionsSetTheLatch := by
  unfold Obligations.KeyTransactionsSetTheLatch
  intro s
  have hframe (l : Latch) : SameBut [.latch] s (s.setKey l) := sameBut_setKey l (List.mem_singleton.mpr rfl)
  exact ⟨fun k => ⟨_, hostMove_keyPress _ s, classifyKey_keyStrings k, hframe _⟩,
    fun key h => ⟨_, hostMove_keyPress key s, classifyKey_of_not_mem h, hframe _⟩,
    ⟨_, hostMove_keyRelease s, rfl, hframe _⟩⟩

/-! ### `RESET` -/

theorem hostMove_reset (s : State) :
    hostMove .reset s = .next ((State.reset.setDraws s.draws).setSchedule s.schedule) := rfl

/-- R215: an unlisted byte is the printed glyph byte, or zero past the table. -/
theorem unlistedByte_eq (a : Nat) : unlistedByte a = printedGlyphs.getD a 0 := by
  rcases Nat.lt_or_ge a 80 with ha | ha
  · revert a
    decide
  · have hglyph : glyph (a / 5) = [] := by
      obtain ⟨d, hd⟩ : ∃ d, a / 5 = d + 16 := ⟨a / 5 - 16, by omega⟩
      rw [hd]
      rfl
    rw [List.getD_eq_default _ _ (show printedGlyphs.length ≤ a from ha), unlistedByte, if_pos (Nat.zero_le a), fontRom,
      Nat.sub_zero, hglyph, List.getD_nil]

/-- Settles O54: the reset state lists no byte, so each reads as the glyph table has it. -/
theorem resetGivesTheResetState : Obligations.ResetGivesTheResetState := by
  unfold Obligations.ResetGivesTheResetState
  intro s
  refine ⟨_, hostMove_reset s, fun a ha => ?_, rfl, State.getV_reset, rfl, rfl, fun k => ?_, rfl, rfl, rfl, pixel_clearFrame⟩
  · rw [memRead_ok ha, ← unlistedByte_eq]
    rfl
  · exact Vector.getElem_replicate k.isLt

/-! ### `LOAD` -/

theorem hostMove_load (image : List Byte) (s : State) : hostMove (.load image) s = storeBytes 0x200 image s := rfl

/-- Settles O55: there is room for 3584 bytes from 0x200 to the end. -/
theorem loadCopiesTheImage : Obligations.LoadCopiesTheImage := by
  unfold Obligations.LoadCopiesTheImage
  intro s image hwf
  rw [hostMove_load]
  refine ⟨fun hfit => storeBytes_completes hwf (.inr (by rw [Config.memSize]; omega)), fun hlong => ?_⟩
  obtain ⟨left, hleft, hbytes, hframe⟩ := storeBytes_raises (bs := image) (a := 0x200) hwf
    (List.ne_nil_of_length_pos (by omega)) (by rw [Config.memSize]; omega)
  exact ⟨left, hleft, fun k hk hk' => hbytes k hk (by rw [Config.memSize]; omega), hframe⟩

/-- The reset state with the host's own two fields of another state. -/
theorem sameBut_reset (n : Nat) (ts : List Transaction) :
    SameBut [.draws, .schedule] State.reset ((State.reset.setDraws n).setSchedule ts) :=
  (sameBut_setDraws n (by simp)).trans (sameBut_setSchedule ts (by simp))

/-- Settles O56: the reset state has an empty memory to copy the image into, and the copy changes nothing else. -/
theorem bootThenLoadIsTheLaunchState : Obligations.BootThenLoadIsTheLaunchState := by
  unfold Obligations.BootThenLoadIsTheLaunchState
  intro s image rest hfit hsched
  have hreset : step s = .next ((State.reset.setDraws s.draws).setSchedule (.host (.load image) :: rest)) :=
    step_of_schedule_host hsched
  have hload : step ((State.reset.setDraws s.draws).setSchedule (.host (.load image) :: rest)) =
      hostMove (.load image) ((State.reset.setDraws s.draws).setSchedule rest) := step_of_schedule_host rfl
  obtain ⟨t, ht, hbytes, hframe⟩ :=
    (loadCopiesTheImage ((State.reset.setDraws s.draws).setSchedule rest) image reset_mem_wf).1 hfit
  have hrun : Sys2Proof.core.run 2 s = .next t :=
    (run_succ_of_step Sys2Proof.core 1 hreset).trans (run_succ_of_step Sys2Proof.core 0 (hload.trans ht))
  have hinv : StateInvariant t :=
    (hostMove_keepsInvariant (.load image) (s := (State.reset.setDraws s.draws).setSchedule rest)
      invariantHoldsAtReset).of_next ht
  refine ⟨t, hrun, hframe .pc (by simp [bytesFrom]), hframe .schedule (by simp [bytesFrom]), hinv.mem_wf, hbytes, ?_⟩
  exact ((sameBut_reset s.draws rest).mono (by simp)).trans (hframe.mono (by simp +contextual))

end Sys2Proof.Machine
end
